-- ==== Sys2Proof/Word.lean ====
section
/-! DEFINITION. The two word types of the machine (spec/00_scope.md R5, R10): u8 and u16.
Only the types stand here; every helper over them is in Machine/Bits.lean. -/

namespace Sys2Proof

/-- A u8: data, one memory cell, one register (R5, R10). -/
abbrev Byte := BitVec 8

/-- A u16: an address, an operand word, the program counter (R5, R10). -/
abbrev Word := BitVec 16

end Sys2Proof
end

