-- ==== Sys2Proof/Machine/Bits.lean ====
section
/-! DEFINITION. Bit-field, byte-order and sign-extension helpers (spec/00_scope.md R10 to R12). -/

namespace Sys2Proof.Machine.Bits

/-- `hi:lo`, the u16 `hi * 256 + lo` (R10). -/
def join (hi lo : Byte) : Word := hi ++ lo

/-- `w[15:8]` (R10, R12 PCH). -/
def hiByte (w : Word) : Byte := w.extractLsb' 8 8

/-- `w[7:0]` (R10, R12 PCL). -/
def loByte (w : Word) : Byte := w.extractLsb' 0 8

/-- `zext_16(v)` (R11). -/
def zext16 (v : Byte) : Word := v.setWidth 16

/-- `sext_16(v)`: `v` if `v < 128`, else `v + 0xFF00` (R11, R102(c)). -/
def sext16 (v : Byte) : Word := if v.toNat < 128 then zext16 v else zext16 v + 0xFF00#16

/-- `bool(b)` as a natural number (R11). -/
def ofBool (b : Bool) : Nat := if b then 1 else 0

end Sys2Proof.Machine.Bits
end

