-- ==== Sys2Proof/Syntax.lean ====
section
/-! DEFINITION. Instructions as syntax: one constructor per official row of spec/opcode_table.json, named by
mnemonic and format, and one for the rows of unassigned opcodes (spec/30_encoding.md R101, R104, R106), with the names
the instruction table uses for mnemonics, formats and addressing modes. -/

namespace Sys2Proof

/-- The 56 mnemonics of R104 and the stub's (R106). -/
inductive Mnemonic where
  | lda | ldx | ldy | sta | stx | sty | tax | tay | txa | tya | tsx | txs
  | adc | sbc | and | ora | eor | bit | inc | dec | inx | iny | dex | dey
  | asl | lsr | rol | ror | cmp | cpx | cpy | bcc | bcs | beq | bne | bmi
  | bpl | bvc | bvs | brk | rti | pha | php | pla | plp | clc | sec | cli
  | sei | cld | sed | clv | nop | jmp | jsr | rts
  | illegal
  deriving DecidableEq, Repr

/-- The thirteen operand formats of R101, and the stub entry's "format none" (R106). -/
inductive Format where
  | imp | acc | imm | zp | zpx | zpy | abs | abx | aby | izx | izy | rel | ind
  | noFormat
  deriving DecidableEq, Repr

/-- The ten AddressingMode variants (R140, R155). -/
inductive AddressingMode where
  | accumulator
  | immediate (value : Byte)
  | zeroPage (address : Byte)
  | zeroPageX (address : Byte)
  | zeroPageY (address : Byte)
  | absolute (address : Word)
  | absoluteX (address : Word)
  | absoluteY (address : Word)
  | indexedIndirect (address : Byte)
  | indirectIndexed (address : Byte)
  deriving DecidableEq, Repr

/-- What an instruction names as its operand: an AddressingMode value, one of the two inline forms, or nothing
(R151 to R153). -/
inductive Operand where
  | implied
  | mode (am : AddressingMode)
  | relative (offset : Byte)
  | indirect (pointer : Word)
  | unassigned
  deriving DecidableEq, Repr

/-- One constructor per official row of the opcode table; `illegal` stands for the 105 rows of R106. -/
inductive Instr where
  -- LDA (R160)
  | ldaImm (value : Byte)
  | ldaZp (address : Byte)
  | ldaZpx (address : Byte)
  | ldaAbs (address : Word)
  | ldaAbx (address : Word)
  | ldaAby (address : Word)
  | ldaIzx (address : Byte)
  | ldaIzy (address : Byte)
  -- LDX (R161)
  | ldxImm (value : Byte)
  | ldxZp (address : Byte)
  | ldxZpy (address : Byte)
  | ldxAbs (address : Word)
  | ldxAby (address : Word)
  -- LDY (R162)
  | ldyImm (value : Byte)
  | ldyZp (address : Byte)
  | ldyZpx (address : Byte)
  | ldyAbs (address : Word)
  | ldyAbx (address : Word)
  -- STA (R163)
  | staZp (address : Byte)
  | staZpx (address : Byte)
  | staAbs (address : Word)
  | staAbx (address : Word)
  | staAby (address : Word)
  | staIzx (address : Byte)
  | staIzy (address : Byte)
  -- STX (R164)
  | stxZp (address : Byte)
  | stxZpy (address : Byte)
  | stxAbs (address : Word)
  -- STY (R165)
  | styZp (address : Byte)
  | styZpx (address : Byte)
  | styAbs (address : Word)
  -- TAX (R166)
  | tax
  -- TAY (R167)
  | tay
  -- TXA (R168)
  | txa
  -- TYA (R169)
  | tya
  -- TSX (R170)
  | tsx
  -- TXS (R171)
  | txs
  -- ADC (R190)
  | adcImm (value : Byte)
  | adcZp (address : Byte)
  | adcZpx (address : Byte)
  | adcAbs (address : Word)
  | adcAbx (address : Word)
  | adcAby (address : Word)
  | adcIzx (address : Byte)
  | adcIzy (address : Byte)
  -- SBC (R191)
  | sbcImm (value : Byte)
  | sbcZp (address : Byte)
  | sbcZpx (address : Byte)
  | sbcAbs (address : Word)
  | sbcAbx (address : Word)
  | sbcAby (address : Word)
  | sbcIzx (address : Byte)
  | sbcIzy (address : Byte)
  -- AND (R192)
  | andImm (value : Byte)
  | andZp (address : Byte)
  | andZpx (address : Byte)
  | andAbs (address : Word)
  | andAbx (address : Word)
  | andAby (address : Word)
  | andIzx (address : Byte)
  | andIzy (address : Byte)
  -- ORA (R193)
  | oraImm (value : Byte)
  | oraZp (address : Byte)
  | oraZpx (address : Byte)
  | oraAbs (address : Word)
  | oraAbx (address : Word)
  | oraAby (address : Word)
  | oraIzx (address : Byte)
  | oraIzy (address : Byte)
  -- EOR (R194)
  | eorImm (value : Byte)
  | eorZp (address : Byte)
  | eorZpx (address : Byte)
  | eorAbs (address : Word)
  | eorAbx (address : Word)
  | eorAby (address : Word)
  | eorIzx (address : Byte)
  | eorIzy (address : Byte)
  -- BIT (R195)
  | bitZp (address : Byte)
  | bitAbs (address : Word)
  -- INC (R196)
  | incZp (address : Byte)
  | incZpx (address : Byte)
  | incAbs (address : Word)
  | incAbx (address : Word)
  -- DEC (R197)
  | decZp (address : Byte)
  | decZpx (address : Byte)
  | decAbs (address : Word)
  | decAbx (address : Word)
  -- INX (R198)
  | inx
  -- INY (R199)
  | iny
  -- DEX (R200)
  | dex
  -- DEY (R201)
  | dey
  -- ASL (R221)
  | aslAcc
  | aslZp (address : Byte)
  | aslZpx (address : Byte)
  | aslAbs (address : Word)
  | aslAbx (address : Word)
  -- LSR (R222)
  | lsrAcc
  | lsrZp (address : Byte)
  | lsrZpx (address : Byte)
  | lsrAbs (address : Word)
  | lsrAbx (address : Word)
  -- ROL (R223)
  | rolAcc
  | rolZp (address : Byte)
  | rolZpx (address : Byte)
  | rolAbs (address : Word)
  | rolAbx (address : Word)
  -- ROR (R224)
  | rorAcc
  | rorZp (address : Byte)
  | rorZpx (address : Byte)
  | rorAbs (address : Word)
  | rorAbx (address : Word)
  -- CMP (R231)
  | cmpImm (value : Byte)
  | cmpZp (address : Byte)
  | cmpZpx (address : Byte)
  | cmpAbs (address : Word)
  | cmpAbx (address : Word)
  | cmpAby (address : Word)
  | cmpIzx (address : Byte)
  | cmpIzy (address : Byte)
  -- CPX (R232)
  | cpxImm (value : Byte)
  | cpxZp (address : Byte)
  | cpxAbs (address : Word)
  -- CPY (R233)
  | cpyImm (value : Byte)
  | cpyZp (address : Byte)
  | cpyAbs (address : Word)
  -- BCC (R241)
  | bcc (offset : Byte)
  -- BCS (R242)
  | bcs (offset : Byte)
  -- BEQ (R243)
  | beq (offset : Byte)
  -- BNE (R244)
  | bne (offset : Byte)
  -- BMI (R245)
  | bmi (offset : Byte)
  -- BPL (R246)
  | bpl (offset : Byte)
  -- BVC (R247)
  | bvc (offset : Byte)
  -- BVS (R248)
  | bvs (offset : Byte)
  -- BRK (R260)
  | brk
  -- RTI (R261)
  | rti
  -- PHA (R262)
  | pha
  -- PHP (R263)
  | php
  -- PLA (R264)
  | pla
  -- PLP (R265)
  | plp
  -- CLC (R266)
  | clc
  -- SEC (R267)
  | sec
  -- CLI (R268)
  | cli
  -- SEI (R269)
  | sei
  -- CLD (R270)
  | cld
  -- SED (R271)
  | sed
  -- CLV (R272)
  | clv
  -- NOP (R273)
  | nop
  -- JMP (R290, R291)
  | jmpAbs (address : Word)
  | jmpInd (pointer : Word)
  -- JSR (R292)
  | jsr (address : Word)
  -- RTS (R293)
  | rts
  -- the unassigned opcodes (R106)
  | illegal (opcode : Byte)
  deriving DecidableEq, Repr

end Sys2Proof
end

