-- ==== Sys2Proof/Machine/Table.lean ====
section
/-! DEFINITION. The instruction table (spec/30_encoding.md R103): mnemonic, format, base cycles and page penalty per
opcode byte, with the length that the format fixes (R101), the illegal bytes (R106) and the cycle numbers of R110. -/

namespace Sys2Proof.Machine

/-- The length of a format in bytes (R101); the stub's length is 1 (R106). -/
def formatLength (f : Format) : Nat :=
  match f with
  | .imp | .acc | .noFormat => 1
  | .imm | .zp | .zpx | .zpy | .izx | .izy | .rel => 2
  | .abs | .abx | .aby | .ind => 3

/-- An entry of the instruction table (R103). -/
structure TableEntry where
  mnemonic : Mnemonic
  format : Format
  base : Nat
  penalty : Nat
  deriving DecidableEq, Repr

/-- The entry's byte-length, fixed by its format (R101, R103). -/
def TableEntry.length (e : TableEntry) : Nat := formatLength e.format

/-- The stub entry of an unassigned opcode (R106). -/
def stubEntry : TableEntry := ⟨.illegal, .noFormat, 0, 0⟩

/-- Opcodes 0x00 to 0x0F (R104, R105, R110). -/
def tableRow0 : List TableEntry :=
  [⟨.brk, .imp, 7, 0⟩, ⟨.ora, .izx, 6, 0⟩, stubEntry, stubEntry, stubEntry, ⟨.ora, .zp, 3, 0⟩,
   ⟨.asl, .zp, 5, 0⟩, stubEntry, ⟨.php, .imp, 3, 0⟩, ⟨.ora, .imm, 2, 0⟩, ⟨.asl, .acc, 2, 0⟩,
   stubEntry, stubEntry, ⟨.ora, .abs, 4, 0⟩, ⟨.asl, .abs, 6, 0⟩, stubEntry]

/-- Opcodes 0x10 to 0x1F (R104, R105, R110). -/
def tableRow1 : List TableEntry :=
  [⟨.bpl, .rel, 2, 1⟩, ⟨.ora, .izy, 5, 1⟩, stubEntry, stubEntry, stubEntry, ⟨.ora, .zpx, 4, 0⟩,
   ⟨.asl, .zpx, 6, 0⟩, stubEntry, ⟨.clc, .imp, 2, 0⟩, ⟨.ora, .aby, 4, 1⟩, stubEntry,
   stubEntry, stubEntry, ⟨.ora, .abx, 4, 1⟩, ⟨.asl, .abx, 7, 0⟩, stubEntry]

/-- Opcodes 0x20 to 0x2F (R104, R105, R110). -/
def tableRow2 : List TableEntry :=
  [⟨.jsr, .abs, 6, 0⟩, ⟨.and, .izx, 6, 0⟩, stubEntry, stubEntry, ⟨.bit, .zp, 3, 0⟩, ⟨.and, .zp, 3, 0⟩,
   ⟨.rol, .zp, 5, 0⟩, stubEntry, ⟨.plp, .imp, 4, 0⟩, ⟨.and, .imm, 2, 0⟩, ⟨.rol, .acc, 2, 0⟩,
   stubEntry, ⟨.bit, .abs, 4, 0⟩, ⟨.and, .abs, 4, 0⟩, ⟨.rol, .abs, 6, 0⟩, stubEntry]

/-- Opcodes 0x30 to 0x3F (R104, R105, R110). -/
def tableRow3 : List TableEntry :=
  [⟨.bmi, .rel, 2, 1⟩, ⟨.and, .izy, 5, 1⟩, stubEntry, stubEntry, stubEntry, ⟨.and, .zpx, 4, 0⟩,
   ⟨.rol, .zpx, 6, 0⟩, stubEntry, ⟨.sec, .imp, 2, 0⟩, ⟨.and, .aby, 4, 1⟩, stubEntry,
   stubEntry, stubEntry, ⟨.and, .abx, 4, 1⟩, ⟨.rol, .abx, 7, 0⟩, stubEntry]

/-- Opcodes 0x40 to 0x4F (R104, R105, R110). -/
def tableRow4 : List TableEntry :=
  [⟨.rti, .imp, 6, 0⟩, ⟨.eor, .izx, 6, 0⟩, stubEntry, stubEntry, stubEntry, ⟨.eor, .zp, 3, 0⟩,
   ⟨.lsr, .zp, 5, 0⟩, stubEntry, ⟨.pha, .imp, 3, 0⟩, ⟨.eor, .imm, 2, 0⟩, ⟨.lsr, .acc, 2, 0⟩,
   stubEntry, ⟨.jmp, .abs, 3, 0⟩, ⟨.eor, .abs, 4, 0⟩, ⟨.lsr, .abs, 6, 0⟩, stubEntry]

/-- Opcodes 0x50 to 0x5F (R104, R105, R110). -/
def tableRow5 : List TableEntry :=
  [⟨.bvc, .rel, 2, 1⟩, ⟨.eor, .izy, 5, 1⟩, stubEntry, stubEntry, stubEntry, ⟨.eor, .zpx, 4, 0⟩,
   ⟨.lsr, .zpx, 6, 0⟩, stubEntry, ⟨.cli, .imp, 2, 0⟩, ⟨.eor, .aby, 4, 1⟩, stubEntry,
   stubEntry, stubEntry, ⟨.eor, .abx, 4, 1⟩, ⟨.lsr, .abx, 7, 0⟩, stubEntry]

/-- Opcodes 0x60 to 0x6F (R104, R105, R110). -/
def tableRow6 : List TableEntry :=
  [⟨.rts, .imp, 6, 0⟩, ⟨.adc, .izx, 6, 0⟩, stubEntry, stubEntry, stubEntry, ⟨.adc, .zp, 3, 0⟩,
   ⟨.ror, .zp, 5, 0⟩, stubEntry, ⟨.pla, .imp, 4, 0⟩, ⟨.adc, .imm, 2, 0⟩, ⟨.ror, .acc, 2, 0⟩,
   stubEntry, ⟨.jmp, .ind, 5, 0⟩, ⟨.adc, .abs, 4, 0⟩, ⟨.ror, .abs, 6, 0⟩, stubEntry]

/-- Opcodes 0x70 to 0x7F (R104, R105, R110). -/
def tableRow7 : List TableEntry :=
  [⟨.bvs, .rel, 2, 1⟩, ⟨.adc, .izy, 5, 1⟩, stubEntry, stubEntry, stubEntry, ⟨.adc, .zpx, 4, 0⟩,
   ⟨.ror, .zpx, 6, 0⟩, stubEntry, ⟨.sei, .imp, 2, 0⟩, ⟨.adc, .aby, 4, 1⟩, stubEntry,
   stubEntry, stubEntry, ⟨.adc, .abx, 4, 1⟩, ⟨.ror, .abx, 7, 0⟩, stubEntry]

/-- Opcodes 0x80 to 0x8F (R104, R105, R110). -/
def tableRow8 : List TableEntry :=
  [stubEntry, ⟨.sta, .izx, 6, 0⟩, stubEntry, stubEntry, ⟨.sty, .zp, 3, 0⟩, ⟨.sta, .zp, 3, 0⟩,
   ⟨.stx, .zp, 3, 0⟩, stubEntry, ⟨.dey, .imp, 2, 0⟩, stubEntry, ⟨.txa, .imp, 2, 0⟩,
   stubEntry, ⟨.sty, .abs, 4, 0⟩, ⟨.sta, .abs, 4, 0⟩, ⟨.stx, .abs, 4, 0⟩, stubEntry]

/-- Opcodes 0x90 to 0x9F (R104, R105, R110). -/
def tableRow9 : List TableEntry :=
  [⟨.bcc, .rel, 2, 1⟩, ⟨.sta, .izy, 6, 0⟩, stubEntry, stubEntry, ⟨.sty, .zpx, 4, 0⟩, ⟨.sta, .zpx, 4, 0⟩,
   ⟨.stx, .zpy, 4, 0⟩, stubEntry, ⟨.tya, .imp, 2, 0⟩, ⟨.sta, .aby, 5, 0⟩, ⟨.txs, .imp, 2, 0⟩,
   stubEntry, stubEntry, ⟨.sta, .abx, 5, 0⟩, stubEntry, stubEntry]

/-- Opcodes 0xA0 to 0xAF (R104, R105, R110). -/
def tableRowA : List TableEntry :=
  [⟨.ldy, .imm, 2, 0⟩, ⟨.lda, .izx, 6, 0⟩, ⟨.ldx, .imm, 2, 0⟩, stubEntry, ⟨.ldy, .zp, 3, 0⟩, ⟨.lda, .zp, 3, 0⟩,
   ⟨.ldx, .zp, 3, 0⟩, stubEntry, ⟨.tay, .imp, 2, 0⟩, ⟨.lda, .imm, 2, 0⟩, ⟨.tax, .imp, 2, 0⟩,
   stubEntry, ⟨.ldy, .abs, 4, 0⟩, ⟨.lda, .abs, 4, 0⟩, ⟨.ldx, .abs, 4, 0⟩, stubEntry]

/-- Opcodes 0xB0 to 0xBF (R104, R105, R110). -/
def tableRowB : List TableEntry :=
  [⟨.bcs, .rel, 2, 1⟩, ⟨.lda, .izy, 5, 1⟩, stubEntry, stubEntry, ⟨.ldy, .zpx, 4, 0⟩, ⟨.lda, .zpx, 4, 0⟩,
   ⟨.ldx, .zpy, 4, 0⟩, stubEntry, ⟨.clv, .imp, 2, 0⟩, ⟨.lda, .aby, 4, 1⟩, ⟨.tsx, .imp, 2, 0⟩,
   stubEntry, ⟨.ldy, .abx, 4, 1⟩, ⟨.lda, .abx, 4, 1⟩, ⟨.ldx, .aby, 4, 1⟩, stubEntry]

/-- Opcodes 0xC0 to 0xCF (R104, R105, R110). -/
def tableRowC : List TableEntry :=
  [⟨.cpy, .imm, 2, 0⟩, ⟨.cmp, .izx, 6, 0⟩, stubEntry, stubEntry, ⟨.cpy, .zp, 3, 0⟩, ⟨.cmp, .zp, 3, 0⟩,
   ⟨.dec, .zp, 5, 0⟩, stubEntry, ⟨.iny, .imp, 2, 0⟩, ⟨.cmp, .imm, 2, 0⟩, ⟨.dex, .imp, 2, 0⟩,
   stubEntry, ⟨.cpy, .abs, 4, 0⟩, ⟨.cmp, .abs, 4, 0⟩, ⟨.dec, .abs, 6, 0⟩, stubEntry]

/-- Opcodes 0xD0 to 0xDF (R104, R105, R110). -/
def tableRowD : List TableEntry :=
  [⟨.bne, .rel, 2, 1⟩, ⟨.cmp, .izy, 5, 1⟩, stubEntry, stubEntry, stubEntry, ⟨.cmp, .zpx, 4, 0⟩,
   ⟨.dec, .zpx, 6, 0⟩, stubEntry, ⟨.cld, .imp, 2, 0⟩, ⟨.cmp, .aby, 4, 1⟩, stubEntry,
   stubEntry, stubEntry, ⟨.cmp, .abx, 4, 1⟩, ⟨.dec, .abx, 7, 0⟩, stubEntry]

/-- Opcodes 0xE0 to 0xEF (R104, R105, R110). -/
def tableRowE : List TableEntry :=
  [⟨.cpx, .imm, 2, 0⟩, ⟨.sbc, .izx, 6, 0⟩, stubEntry, stubEntry, ⟨.cpx, .zp, 3, 0⟩, ⟨.sbc, .zp, 3, 0⟩,
   ⟨.inc, .zp, 5, 0⟩, stubEntry, ⟨.inx, .imp, 2, 0⟩, ⟨.sbc, .imm, 2, 0⟩, ⟨.nop, .imp, 2, 0⟩,
   stubEntry, ⟨.cpx, .abs, 4, 0⟩, ⟨.sbc, .abs, 4, 0⟩, ⟨.inc, .abs, 6, 0⟩, stubEntry]

/-- Opcodes 0xF0 to 0xFF (R104, R105, R110). -/
def tableRowF : List TableEntry :=
  [⟨.beq, .rel, 2, 1⟩, ⟨.sbc, .izy, 5, 1⟩, stubEntry, stubEntry, stubEntry, ⟨.sbc, .zpx, 4, 0⟩,
   ⟨.inc, .zpx, 6, 0⟩, stubEntry, ⟨.sed, .imp, 2, 0⟩, ⟨.sbc, .aby, 4, 1⟩, stubEntry,
   stubEntry, stubEntry, ⟨.sbc, .abx, 4, 1⟩, ⟨.inc, .abx, 7, 0⟩, stubEntry]

/-- The 256 entries, "indexed directly by opcode byte" (R103, R110). The cycle numbers are the default of the open
parameter TIMING (D21; notes/assumptions/4). -/
def instructionTable : List TableEntry :=
  tableRow0 ++ tableRow1 ++ tableRow2 ++ tableRow3 ++ tableRow4 ++ tableRow5 ++ tableRow6 ++ tableRow7 ++
  tableRow8 ++ tableRow9 ++ tableRowA ++ tableRowB ++ tableRowC ++ tableRowD ++ tableRowE ++ tableRowF

/-- `TABLE[op]` (R133). -/
def tableEntry (op : Byte) : TableEntry := instructionTable.getD op.toNat stubEntry

/-- The 105 illegal opcode bytes, as R106 lists them. -/
def illegalOpcodes : List Byte :=
  [0x02#8, 0x03#8, 0x04#8, 0x07#8, 0x0B#8, 0x0C#8, 0x0F#8, 0x12#8, 0x13#8, 0x14#8, 0x17#8, 0x1A#8, 0x1B#8, 0x1C#8, 0x1F#8] ++
  [0x22#8, 0x23#8, 0x27#8, 0x2B#8, 0x2F#8, 0x32#8, 0x33#8, 0x34#8, 0x37#8, 0x3A#8, 0x3B#8, 0x3C#8, 0x3F#8, 0x42#8, 0x43#8] ++
  [0x44#8, 0x47#8, 0x4B#8, 0x4F#8, 0x52#8, 0x53#8, 0x54#8, 0x57#8, 0x5A#8, 0x5B#8, 0x5C#8, 0x5F#8, 0x62#8, 0x63#8, 0x64#8] ++
  [0x67#8, 0x6B#8, 0x6F#8, 0x72#8, 0x73#8, 0x74#8, 0x77#8, 0x7A#8, 0x7B#8, 0x7C#8, 0x7F#8, 0x80#8, 0x82#8, 0x83#8, 0x87#8] ++
  [0x89#8, 0x8B#8, 0x8F#8, 0x92#8, 0x93#8, 0x97#8, 0x9B#8, 0x9C#8, 0x9E#8, 0x9F#8, 0xA3#8, 0xA7#8, 0xAB#8, 0xAF#8, 0xB2#8] ++
  [0xB3#8, 0xB7#8, 0xBB#8, 0xBF#8, 0xC2#8, 0xC3#8, 0xC7#8, 0xCB#8, 0xCF#8, 0xD2#8, 0xD3#8, 0xD4#8, 0xD7#8, 0xDA#8, 0xDB#8] ++
  [0xDC#8, 0xDF#8, 0xE2#8, 0xE3#8, 0xE7#8, 0xEB#8, 0xEF#8, 0xF2#8, 0xF3#8, 0xF4#8, 0xF7#8, 0xFA#8, 0xFB#8, 0xFC#8, 0xFF#8]

/-- The format an operand belongs to (R155). -/
def formatOf (operand : Operand) : Format :=
  match operand with
  | .implied => .imp
  | .mode .accumulator => .acc
  | .mode (.immediate _) => .imm
  | .mode (.zeroPage _) => .zp
  | .mode (.zeroPageX _) => .zpx
  | .mode (.zeroPageY _) => .zpy
  | .mode (.absolute _) => .abs
  | .mode (.absoluteX _) => .abx
  | .mode (.absoluteY _) => .aby
  | .mode (.indexedIndirect _) => .izx
  | .mode (.indirectIndexed _) => .izy
  | .relative _ => .rel
  | .indirect _ => .ind
  | .unassigned => .noFormat

/-- The mnemonic of an instruction (R104). -/
def mnemonicOf (i : Instr) : Mnemonic :=
  match i with
  | .ldaImm _ | .ldaZp _ | .ldaZpx _ | .ldaAbs _ | .ldaAbx _ | .ldaAby _ | .ldaIzx _ | .ldaIzy _ => .lda
  | .ldxImm _ | .ldxZp _ | .ldxZpy _ | .ldxAbs _ | .ldxAby _ => .ldx
  | .ldyImm _ | .ldyZp _ | .ldyZpx _ | .ldyAbs _ | .ldyAbx _ => .ldy
  | .staZp _ | .staZpx _ | .staAbs _ | .staAbx _ | .staAby _ | .staIzx _ | .staIzy _ => .sta
  | .stxZp _ | .stxZpy _ | .stxAbs _ => .stx
  | .styZp _ | .styZpx _ | .styAbs _ => .sty
  | .tax => .tax
  | .tay => .tay
  | .txa => .txa
  | .tya => .tya
  | .tsx => .tsx
  | .txs => .txs
  | .adcImm _ | .adcZp _ | .adcZpx _ | .adcAbs _ | .adcAbx _ | .adcAby _ | .adcIzx _ | .adcIzy _ => .adc
  | .sbcImm _ | .sbcZp _ | .sbcZpx _ | .sbcAbs _ | .sbcAbx _ | .sbcAby _ | .sbcIzx _ | .sbcIzy _ => .sbc
  | .andImm _ | .andZp _ | .andZpx _ | .andAbs _ | .andAbx _ | .andAby _ | .andIzx _ | .andIzy _ => .and
  | .oraImm _ | .oraZp _ | .oraZpx _ | .oraAbs _ | .oraAbx _ | .oraAby _ | .oraIzx _ | .oraIzy _ => .ora
  | .eorImm _ | .eorZp _ | .eorZpx _ | .eorAbs _ | .eorAbx _ | .eorAby _ | .eorIzx _ | .eorIzy _ => .eor
  | .bitZp _ | .bitAbs _ => .bit
  | .incZp _ | .incZpx _ | .incAbs _ | .incAbx _ => .inc
  | .decZp _ | .decZpx _ | .decAbs _ | .decAbx _ => .dec
  | .inx => .inx
  | .iny => .iny
  | .dex => .dex
  | .dey => .dey
  | .aslAcc | .aslZp _ | .aslZpx _ | .aslAbs _ | .aslAbx _ => .asl
  | .lsrAcc | .lsrZp _ | .lsrZpx _ | .lsrAbs _ | .lsrAbx _ => .lsr
  | .rolAcc | .rolZp _ | .rolZpx _ | .rolAbs _ | .rolAbx _ => .rol
  | .rorAcc | .rorZp _ | .rorZpx _ | .rorAbs _ | .rorAbx _ => .ror
  | .cmpImm _ | .cmpZp _ | .cmpZpx _ | .cmpAbs _ | .cmpAbx _ | .cmpAby _ | .cmpIzx _ | .cmpIzy _ => .cmp
  | .cpxImm _ | .cpxZp _ | .cpxAbs _ => .cpx
  | .cpyImm _ | .cpyZp _ | .cpyAbs _ => .cpy
  | .bcc _ => .bcc
  | .bcs _ => .bcs
  | .beq _ => .beq
  | .bne _ => .bne
  | .bmi _ => .bmi
  | .bpl _ => .bpl
  | .bvc _ => .bvc
  | .bvs _ => .bvs
  | .brk => .brk
  | .rti => .rti
  | .pha => .pha
  | .php => .php
  | .pla => .pla
  | .plp => .plp
  | .clc => .clc
  | .sec => .sec
  | .cli => .cli
  | .sei => .sei
  | .cld => .cld
  | .sed => .sed
  | .clv => .clv
  | .nop => .nop
  | .jmpAbs _ | .jmpInd _ => .jmp
  | .jsr _ => .jsr
  | .rts => .rts
  | .illegal _ => .illegal

/-- The operand of an instruction (R155). -/
def operandOf (i : Instr) : Operand :=
  match i with
  | .ldaImm value => .mode (.immediate value)
  | .ldaZp address => .mode (.zeroPage address)
  | .ldaZpx address => .mode (.zeroPageX address)
  | .ldaAbs address => .mode (.absolute address)
  | .ldaAbx address => .mode (.absoluteX address)
  | .ldaAby address => .mode (.absoluteY address)
  | .ldaIzx address => .mode (.indexedIndirect address)
  | .ldaIzy address => .mode (.indirectIndexed address)
  | .ldxImm value => .mode (.immediate value)
  | .ldxZp address => .mode (.zeroPage address)
  | .ldxZpy address => .mode (.zeroPageY address)
  | .ldxAbs address => .mode (.absolute address)
  | .ldxAby address => .mode (.absoluteY address)
  | .ldyImm value => .mode (.immediate value)
  | .ldyZp address => .mode (.zeroPage address)
  | .ldyZpx address => .mode (.zeroPageX address)
  | .ldyAbs address => .mode (.absolute address)
  | .ldyAbx address => .mode (.absoluteX address)
  | .staZp address => .mode (.zeroPage address)
  | .staZpx address => .mode (.zeroPageX address)
  | .staAbs address => .mode (.absolute address)
  | .staAbx address => .mode (.absoluteX address)
  | .staAby address => .mode (.absoluteY address)
  | .staIzx address => .mode (.indexedIndirect address)
  | .staIzy address => .mode (.indirectIndexed address)
  | .stxZp address => .mode (.zeroPage address)
  | .stxZpy address => .mode (.zeroPageY address)
  | .stxAbs address => .mode (.absolute address)
  | .styZp address => .mode (.zeroPage address)
  | .styZpx address => .mode (.zeroPageX address)
  | .styAbs address => .mode (.absolute address)
  | .tax => .implied
  | .tay => .implied
  | .txa => .implied
  | .tya => .implied
  | .tsx => .implied
  | .txs => .implied
  | .adcImm value => .mode (.immediate value)
  | .adcZp address => .mode (.zeroPage address)
  | .adcZpx address => .mode (.zeroPageX address)
  | .adcAbs address => .mode (.absolute address)
  | .adcAbx address => .mode (.absoluteX address)
  | .adcAby address => .mode (.absoluteY address)
  | .adcIzx address => .mode (.indexedIndirect address)
  | .adcIzy address => .mode (.indirectIndexed address)
  | .sbcImm value => .mode (.immediate value)
  | .sbcZp address => .mode (.zeroPage address)
  | .sbcZpx address => .mode (.zeroPageX address)
  | .sbcAbs address => .mode (.absolute address)
  | .sbcAbx address => .mode (.absoluteX address)
  | .sbcAby address => .mode (.absoluteY address)
  | .sbcIzx address => .mode (.indexedIndirect address)
  | .sbcIzy address => .mode (.indirectIndexed address)
  | .andImm value => .mode (.immediate value)
  | .andZp address => .mode (.zeroPage address)
  | .andZpx address => .mode (.zeroPageX address)
  | .andAbs address => .mode (.absolute address)
  | .andAbx address => .mode (.absoluteX address)
  | .andAby address => .mode (.absoluteY address)
  | .andIzx address => .mode (.indexedIndirect address)
  | .andIzy address => .mode (.indirectIndexed address)
  | .oraImm value => .mode (.immediate value)
  | .oraZp address => .mode (.zeroPage address)
  | .oraZpx address => .mode (.zeroPageX address)
  | .oraAbs address => .mode (.absolute address)
  | .oraAbx address => .mode (.absoluteX address)
  | .oraAby address => .mode (.absoluteY address)
  | .oraIzx address => .mode (.indexedIndirect address)
  | .oraIzy address => .mode (.indirectIndexed address)
  | .eorImm value => .mode (.immediate value)
  | .eorZp address => .mode (.zeroPage address)
  | .eorZpx address => .mode (.zeroPageX address)
  | .eorAbs address => .mode (.absolute address)
  | .eorAbx address => .mode (.absoluteX address)
  | .eorAby address => .mode (.absoluteY address)
  | .eorIzx address => .mode (.indexedIndirect address)
  | .eorIzy address => .mode (.indirectIndexed address)
  | .bitZp address => .mode (.zeroPage address)
  | .bitAbs address => .mode (.absolute address)
  | .incZp address => .mode (.zeroPage address)
  | .incZpx address => .mode (.zeroPageX address)
  | .incAbs address => .mode (.absolute address)
  | .incAbx address => .mode (.absoluteX address)
  | .decZp address => .mode (.zeroPage address)
  | .decZpx address => .mode (.zeroPageX address)
  | .decAbs address => .mode (.absolute address)
  | .decAbx address => .mode (.absoluteX address)
  | .inx => .implied
  | .iny => .implied
  | .dex => .implied
  | .dey => .implied
  | .aslAcc => .mode .accumulator
  | .aslZp address => .mode (.zeroPage address)
  | .aslZpx address => .mode (.zeroPageX address)
  | .aslAbs address => .mode (.absolute address)
  | .aslAbx address => .mode (.absoluteX address)
  | .lsrAcc => .mode .accumulator
  | .lsrZp address => .mode (.zeroPage address)
  | .lsrZpx address => .mode (.zeroPageX address)
  | .lsrAbs address => .mode (.absolute address)
  | .lsrAbx address => .mode (.absoluteX address)
  | .rolAcc => .mode .accumulator
  | .rolZp address => .mode (.zeroPage address)
  | .rolZpx address => .mode (.zeroPageX address)
  | .rolAbs address => .mode (.absolute address)
  | .rolAbx address => .mode (.absoluteX address)
  | .rorAcc => .mode .accumulator
  | .rorZp address => .mode (.zeroPage address)
  | .rorZpx address => .mode (.zeroPageX address)
  | .rorAbs address => .mode (.absolute address)
  | .rorAbx address => .mode (.absoluteX address)
  | .cmpImm value => .mode (.immediate value)
  | .cmpZp address => .mode (.zeroPage address)
  | .cmpZpx address => .mode (.zeroPageX address)
  | .cmpAbs address => .mode (.absolute address)
  | .cmpAbx address => .mode (.absoluteX address)
  | .cmpAby address => .mode (.absoluteY address)
  | .cmpIzx address => .mode (.indexedIndirect address)
  | .cmpIzy address => .mode (.indirectIndexed address)
  | .cpxImm value => .mode (.immediate value)
  | .cpxZp address => .mode (.zeroPage address)
  | .cpxAbs address => .mode (.absolute address)
  | .cpyImm value => .mode (.immediate value)
  | .cpyZp address => .mode (.zeroPage address)
  | .cpyAbs address => .mode (.absolute address)
  | .bcc offset => .relative offset
  | .bcs offset => .relative offset
  | .beq offset => .relative offset
  | .bne offset => .relative offset
  | .bmi offset => .relative offset
  | .bpl offset => .relative offset
  | .bvc offset => .relative offset
  | .bvs offset => .relative offset
  | .brk => .implied
  | .rti => .implied
  | .pha => .implied
  | .php => .implied
  | .pla => .implied
  | .plp => .implied
  | .clc => .implied
  | .sec => .implied
  | .cli => .implied
  | .sei => .implied
  | .cld => .implied
  | .sed => .implied
  | .clv => .implied
  | .nop => .implied
  | .jmpAbs address => .mode (.absolute address)
  | .jmpInd pointer => .indirect pointer
  | .jsr address => .mode (.absolute address)
  | .rts => .implied
  | .illegal _ => .unassigned

end Sys2Proof.Machine
end

