-- ==== Sys2Proof/WellFormed.lean ====
section
/-! DEFINITION. Which terms of Instr are instructions of the machine (spec/30_encoding.md R101, R104, R106). -/

namespace Sys2Proof

/-- Every operand bit is significant (R101), so the one check is that `illegal` carries an unassigned opcode (R106). -/
def Instr.wellFormed (i : Instr) : Bool :=
  match i with
  | .illegal op => (Machine.tableEntry op).mnemonic == .illegal
  | _ => true

end Sys2Proof
end

