-- ==== Sys2Proof/Decode.lean ====
section
/-! DEFINITION. From bytes to an instruction and back (spec/30_encoding.md R100 to R107). The opcode byte alone decides
the mnemonic, the format and the length. -/

namespace Sys2Proof

/-- Why a list of bytes is not an instruction. -/
inductive DecodeError where
  /-- There is no opcode byte. -/
  | noOpcode
  /-- The opcode's format has operand bytes that are not there (R101). -/
  | missingOperand (opcode : Byte)
  deriving DecidableEq, Repr

/-- The instruction of an opcode byte and its operand bytes `b1`, `b2`; a byte the format does not have is ignored.
A two-byte operand is `b2:b1` (R102). An unassigned opcode is the illegal instruction (R106). -/
def decodeOpcode (op b1 b2 : Byte) : Instr :=
  match op.toNat with
  | 0x00 => .brk
  | 0x01 => .oraIzx b1
  | 0x05 => .oraZp b1
  | 0x06 => .aslZp b1
  | 0x08 => .php
  | 0x09 => .oraImm b1
  | 0x0A => .aslAcc
  | 0x0D => .oraAbs (Machine.Bits.join b2 b1)
  | 0x0E => .aslAbs (Machine.Bits.join b2 b1)
  | 0x10 => .bpl b1
  | 0x11 => .oraIzy b1
  | 0x15 => .oraZpx b1
  | 0x16 => .aslZpx b1
  | 0x18 => .clc
  | 0x19 => .oraAby (Machine.Bits.join b2 b1)
  | 0x1D => .oraAbx (Machine.Bits.join b2 b1)
  | 0x1E => .aslAbx (Machine.Bits.join b2 b1)
  | 0x20 => .jsr (Machine.Bits.join b2 b1)
  | 0x21 => .andIzx b1
  | 0x24 => .bitZp b1
  | 0x25 => .andZp b1
  | 0x26 => .rolZp b1
  | 0x28 => .plp
  | 0x29 => .andImm b1
  | 0x2A => .rolAcc
  | 0x2C => .bitAbs (Machine.Bits.join b2 b1)
  | 0x2D => .andAbs (Machine.Bits.join b2 b1)
  | 0x2E => .rolAbs (Machine.Bits.join b2 b1)
  | 0x30 => .bmi b1
  | 0x31 => .andIzy b1
  | 0x35 => .andZpx b1
  | 0x36 => .rolZpx b1
  | 0x38 => .sec
  | 0x39 => .andAby (Machine.Bits.join b2 b1)
  | 0x3D => .andAbx (Machine.Bits.join b2 b1)
  | 0x3E => .rolAbx (Machine.Bits.join b2 b1)
  | 0x40 => .rti
  | 0x41 => .eorIzx b1
  | 0x45 => .eorZp b1
  | 0x46 => .lsrZp b1
  | 0x48 => .pha
  | 0x49 => .eorImm b1
  | 0x4A => .lsrAcc
  | 0x4C => .jmpAbs (Machine.Bits.join b2 b1)
  | 0x4D => .eorAbs (Machine.Bits.join b2 b1)
  | 0x4E => .lsrAbs (Machine.Bits.join b2 b1)
  | 0x50 => .bvc b1
  | 0x51 => .eorIzy b1
  | 0x55 => .eorZpx b1
  | 0x56 => .lsrZpx b1
  | 0x58 => .cli
  | 0x59 => .eorAby (Machine.Bits.join b2 b1)
  | 0x5D => .eorAbx (Machine.Bits.join b2 b1)
  | 0x5E => .lsrAbx (Machine.Bits.join b2 b1)
  | 0x60 => .rts
  | 0x61 => .adcIzx b1
  | 0x65 => .adcZp b1
  | 0x66 => .rorZp b1
  | 0x68 => .pla
  | 0x69 => .adcImm b1
  | 0x6A => .rorAcc
  | 0x6C => .jmpInd (Machine.Bits.join b2 b1)
  | 0x6D => .adcAbs (Machine.Bits.join b2 b1)
  | 0x6E => .rorAbs (Machine.Bits.join b2 b1)
  | 0x70 => .bvs b1
  | 0x71 => .adcIzy b1
  | 0x75 => .adcZpx b1
  | 0x76 => .rorZpx b1
  | 0x78 => .sei
  | 0x79 => .adcAby (Machine.Bits.join b2 b1)
  | 0x7D => .adcAbx (Machine.Bits.join b2 b1)
  | 0x7E => .rorAbx (Machine.Bits.join b2 b1)
  | 0x81 => .staIzx b1
  | 0x84 => .styZp b1
  | 0x85 => .staZp b1
  | 0x86 => .stxZp b1
  | 0x88 => .dey
  | 0x8A => .txa
  | 0x8C => .styAbs (Machine.Bits.join b2 b1)
  | 0x8D => .staAbs (Machine.Bits.join b2 b1)
  | 0x8E => .stxAbs (Machine.Bits.join b2 b1)
  | 0x90 => .bcc b1
  | 0x91 => .staIzy b1
  | 0x94 => .styZpx b1
  | 0x95 => .staZpx b1
  | 0x96 => .stxZpy b1
  | 0x98 => .tya
  | 0x99 => .staAby (Machine.Bits.join b2 b1)
  | 0x9A => .txs
  | 0x9D => .staAbx (Machine.Bits.join b2 b1)
  | 0xA0 => .ldyImm b1
  | 0xA1 => .ldaIzx b1
  | 0xA2 => .ldxImm b1
  | 0xA4 => .ldyZp b1
  | 0xA5 => .ldaZp b1
  | 0xA6 => .ldxZp b1
  | 0xA8 => .tay
  | 0xA9 => .ldaImm b1
  | 0xAA => .tax
  | 0xAC => .ldyAbs (Machine.Bits.join b2 b1)
  | 0xAD => .ldaAbs (Machine.Bits.join b2 b1)
  | 0xAE => .ldxAbs (Machine.Bits.join b2 b1)
  | 0xB0 => .bcs b1
  | 0xB1 => .ldaIzy b1
  | 0xB4 => .ldyZpx b1
  | 0xB5 => .ldaZpx b1
  | 0xB6 => .ldxZpy b1
  | 0xB8 => .clv
  | 0xB9 => .ldaAby (Machine.Bits.join b2 b1)
  | 0xBA => .tsx
  | 0xBC => .ldyAbx (Machine.Bits.join b2 b1)
  | 0xBD => .ldaAbx (Machine.Bits.join b2 b1)
  | 0xBE => .ldxAby (Machine.Bits.join b2 b1)
  | 0xC0 => .cpyImm b1
  | 0xC1 => .cmpIzx b1
  | 0xC4 => .cpyZp b1
  | 0xC5 => .cmpZp b1
  | 0xC6 => .decZp b1
  | 0xC8 => .iny
  | 0xC9 => .cmpImm b1
  | 0xCA => .dex
  | 0xCC => .cpyAbs (Machine.Bits.join b2 b1)
  | 0xCD => .cmpAbs (Machine.Bits.join b2 b1)
  | 0xCE => .decAbs (Machine.Bits.join b2 b1)
  | 0xD0 => .bne b1
  | 0xD1 => .cmpIzy b1
  | 0xD5 => .cmpZpx b1
  | 0xD6 => .decZpx b1
  | 0xD8 => .cld
  | 0xD9 => .cmpAby (Machine.Bits.join b2 b1)
  | 0xDD => .cmpAbx (Machine.Bits.join b2 b1)
  | 0xDE => .decAbx (Machine.Bits.join b2 b1)
  | 0xE0 => .cpxImm b1
  | 0xE1 => .sbcIzx b1
  | 0xE4 => .cpxZp b1
  | 0xE5 => .sbcZp b1
  | 0xE6 => .incZp b1
  | 0xE8 => .inx
  | 0xE9 => .sbcImm b1
  | 0xEA => .nop
  | 0xEC => .cpxAbs (Machine.Bits.join b2 b1)
  | 0xED => .sbcAbs (Machine.Bits.join b2 b1)
  | 0xEE => .incAbs (Machine.Bits.join b2 b1)
  | 0xF0 => .beq b1
  | 0xF1 => .sbcIzy b1
  | 0xF5 => .sbcZpx b1
  | 0xF6 => .incZpx b1
  | 0xF8 => .sed
  | 0xF9 => .sbcAby (Machine.Bits.join b2 b1)
  | 0xFD => .sbcAbx (Machine.Bits.join b2 b1)
  | 0xFE => .incAbx (Machine.Bits.join b2 b1)
  | _ => .illegal op

/-- The operand that a table format builds from the operand bytes (R155). -/
def selectOperand (f : Format) (b1 b2 : Byte) : Operand :=
  match f with
  | .imp => .implied
  | .acc => .mode .accumulator
  | .imm => .mode (.immediate b1)
  | .zp => .mode (.zeroPage b1)
  | .zpx => .mode (.zeroPageX b1)
  | .zpy => .mode (.zeroPageY b1)
  | .abs => .mode (.absolute (Machine.Bits.join b2 b1))
  | .abx => .mode (.absoluteX (Machine.Bits.join b2 b1))
  | .aby => .mode (.absoluteY (Machine.Bits.join b2 b1))
  | .izx => .mode (.indexedIndirect b1)
  | .izy => .mode (.indirectIndexed b1)
  | .rel => .relative b1
  | .ind => .indirect (Machine.Bits.join b2 b1)
  | .noFormat => .unassigned

/-- Decoding a list of bytes: the instruction and the bytes after it. Total; it rejects by name. -/
def decode (bytes : List Byte) : Except DecodeError (Instr × List Byte) :=
  match bytes with
  | [] => .error .noOpcode
  | op :: rest =>
    match (Machine.tableEntry op).length, rest with
    | 1, _ => .ok (decodeOpcode op 0#8 0#8, rest)
    | 2, b1 :: rest' => .ok (decodeOpcode op b1 0#8, rest')
    | 3, b1 :: b2 :: rest' => .ok (decodeOpcode op b1 b2, rest')
    | _, _ => .error (.missingOperand op)

/-- The opcode byte of an instruction (R104). -/
def opcodeOf (i : Instr) : Byte :=
  match i with
  | .ldaImm _ => 0xA9#8
  | .ldaZp _ => 0xA5#8
  | .ldaZpx _ => 0xB5#8
  | .ldaAbs _ => 0xAD#8
  | .ldaAbx _ => 0xBD#8
  | .ldaAby _ => 0xB9#8
  | .ldaIzx _ => 0xA1#8
  | .ldaIzy _ => 0xB1#8
  | .ldxImm _ => 0xA2#8
  | .ldxZp _ => 0xA6#8
  | .ldxZpy _ => 0xB6#8
  | .ldxAbs _ => 0xAE#8
  | .ldxAby _ => 0xBE#8
  | .ldyImm _ => 0xA0#8
  | .ldyZp _ => 0xA4#8
  | .ldyZpx _ => 0xB4#8
  | .ldyAbs _ => 0xAC#8
  | .ldyAbx _ => 0xBC#8
  | .staZp _ => 0x85#8
  | .staZpx _ => 0x95#8
  | .staAbs _ => 0x8D#8
  | .staAbx _ => 0x9D#8
  | .staAby _ => 0x99#8
  | .staIzx _ => 0x81#8
  | .staIzy _ => 0x91#8
  | .stxZp _ => 0x86#8
  | .stxZpy _ => 0x96#8
  | .stxAbs _ => 0x8E#8
  | .styZp _ => 0x84#8
  | .styZpx _ => 0x94#8
  | .styAbs _ => 0x8C#8
  | .tax => 0xAA#8
  | .tay => 0xA8#8
  | .txa => 0x8A#8
  | .tya => 0x98#8
  | .tsx => 0xBA#8
  | .txs => 0x9A#8
  | .adcImm _ => 0x69#8
  | .adcZp _ => 0x65#8
  | .adcZpx _ => 0x75#8
  | .adcAbs _ => 0x6D#8
  | .adcAbx _ => 0x7D#8
  | .adcAby _ => 0x79#8
  | .adcIzx _ => 0x61#8
  | .adcIzy _ => 0x71#8
  | .sbcImm _ => 0xE9#8
  | .sbcZp _ => 0xE5#8
  | .sbcZpx _ => 0xF5#8
  | .sbcAbs _ => 0xED#8
  | .sbcAbx _ => 0xFD#8
  | .sbcAby _ => 0xF9#8
  | .sbcIzx _ => 0xE1#8
  | .sbcIzy _ => 0xF1#8
  | .andImm _ => 0x29#8
  | .andZp _ => 0x25#8
  | .andZpx _ => 0x35#8
  | .andAbs _ => 0x2D#8
  | .andAbx _ => 0x3D#8
  | .andAby _ => 0x39#8
  | .andIzx _ => 0x21#8
  | .andIzy _ => 0x31#8
  | .oraImm _ => 0x09#8
  | .oraZp _ => 0x05#8
  | .oraZpx _ => 0x15#8
  | .oraAbs _ => 0x0D#8
  | .oraAbx _ => 0x1D#8
  | .oraAby _ => 0x19#8
  | .oraIzx _ => 0x01#8
  | .oraIzy _ => 0x11#8
  | .eorImm _ => 0x49#8
  | .eorZp _ => 0x45#8
  | .eorZpx _ => 0x55#8
  | .eorAbs _ => 0x4D#8
  | .eorAbx _ => 0x5D#8
  | .eorAby _ => 0x59#8
  | .eorIzx _ => 0x41#8
  | .eorIzy _ => 0x51#8
  | .bitZp _ => 0x24#8
  | .bitAbs _ => 0x2C#8
  | .incZp _ => 0xE6#8
  | .incZpx _ => 0xF6#8
  | .incAbs _ => 0xEE#8
  | .incAbx _ => 0xFE#8
  | .decZp _ => 0xC6#8
  | .decZpx _ => 0xD6#8
  | .decAbs _ => 0xCE#8
  | .decAbx _ => 0xDE#8
  | .inx => 0xE8#8
  | .iny => 0xC8#8
  | .dex => 0xCA#8
  | .dey => 0x88#8
  | .aslAcc => 0x0A#8
  | .aslZp _ => 0x06#8
  | .aslZpx _ => 0x16#8
  | .aslAbs _ => 0x0E#8
  | .aslAbx _ => 0x1E#8
  | .lsrAcc => 0x4A#8
  | .lsrZp _ => 0x46#8
  | .lsrZpx _ => 0x56#8
  | .lsrAbs _ => 0x4E#8
  | .lsrAbx _ => 0x5E#8
  | .rolAcc => 0x2A#8
  | .rolZp _ => 0x26#8
  | .rolZpx _ => 0x36#8
  | .rolAbs _ => 0x2E#8
  | .rolAbx _ => 0x3E#8
  | .rorAcc => 0x6A#8
  | .rorZp _ => 0x66#8
  | .rorZpx _ => 0x76#8
  | .rorAbs _ => 0x6E#8
  | .rorAbx _ => 0x7E#8
  | .cmpImm _ => 0xC9#8
  | .cmpZp _ => 0xC5#8
  | .cmpZpx _ => 0xD5#8
  | .cmpAbs _ => 0xCD#8
  | .cmpAbx _ => 0xDD#8
  | .cmpAby _ => 0xD9#8
  | .cmpIzx _ => 0xC1#8
  | .cmpIzy _ => 0xD1#8
  | .cpxImm _ => 0xE0#8
  | .cpxZp _ => 0xE4#8
  | .cpxAbs _ => 0xEC#8
  | .cpyImm _ => 0xC0#8
  | .cpyZp _ => 0xC4#8
  | .cpyAbs _ => 0xCC#8
  | .bcc _ => 0x90#8
  | .bcs _ => 0xB0#8
  | .beq _ => 0xF0#8
  | .bne _ => 0xD0#8
  | .bmi _ => 0x30#8
  | .bpl _ => 0x10#8
  | .bvc _ => 0x50#8
  | .bvs _ => 0x70#8
  | .brk => 0x00#8
  | .rti => 0x40#8
  | .pha => 0x48#8
  | .php => 0x08#8
  | .pla => 0x68#8
  | .plp => 0x28#8
  | .clc => 0x18#8
  | .sec => 0x38#8
  | .cli => 0x58#8
  | .sei => 0x78#8
  | .cld => 0xD8#8
  | .sed => 0xF8#8
  | .clv => 0xB8#8
  | .nop => 0xEA#8
  | .jmpAbs _ => 0x4C#8
  | .jmpInd _ => 0x6C#8
  | .jsr _ => 0x20#8
  | .rts => 0x60#8
  | .illegal op => op

/-- The operand bytes, low byte first (R101, R102). -/
def operandBytes (operand : Operand) : List Byte :=
  match operand with
  | .implied | .mode .accumulator | .unassigned => []
  | .mode (.immediate b) | .mode (.zeroPage b) | .mode (.zeroPageX b) | .mode (.zeroPageY b) => [b]
  | .mode (.indexedIndirect b) | .mode (.indirectIndexed b) | .relative b => [b]
  | .mode (.absolute w) | .mode (.absoluteX w) | .mode (.absoluteY w) | .indirect w =>
    [Machine.Bits.loByte w, Machine.Bits.hiByte w]

/-- The bytes of an instruction (R100). -/
def encode (i : Instr) : List Byte := opcodeOf i :: operandBytes (Machine.operandOf i)

/-- The table entry of an instruction (R103). -/
def entryOf (i : Instr) : Machine.TableEntry := Machine.tableEntry (opcodeOf i)

/-- The length of an instruction in bytes (R107). -/
def lengthOf (i : Instr) : Nat := (entryOf i).length

/-- The three bytes of an instruction given as a number of `nbits` bits, bit 0 the least significant bit of the first
byte, every higher bit 0. -/
def tableWordBytes (nbits w : Nat) : List Byte :=
  let v := w % 2 ^ nbits
  [BitVec.ofNat 8 v, BitVec.ofNat 8 (v / 256), BitVec.ofNat 8 (v / 65536)]

/-- The instruction the decoder reads from an instruction whose bits are `w`, numbered as the opcode table numbers
them. -/
def decodeTableWord (nbits w : Nat) : Option Instr :=
  match decode (tableWordBytes nbits w) with
  | .ok (i, _) => some i
  | .error _ => none

end Sys2Proof
end

