-- ==== Sys2Proof/Machine/Flags.lean ====
section
/-! DEFINITION. The status byte P and every flag computation of the instruction set (spec/10_state.md R26 to R36,
spec/42_arithmetic_logic.md R190, spec/43_shift_rotate.md R220, spec/44_compare.md R230). -/

namespace Sys2Proof.Machine.Flags

/-- Bit numbers of P (R26). -/
abbrev cBit : Nat := 0
/-- Zero (R28). -/
abbrev zBit : Nat := 1
/-- Interrupt disable (R29). -/
abbrev iBit : Nat := 2
/-- Decimal, inert (R30). -/
abbrev dBit : Nat := 3
/-- Break (R31). -/
abbrev bBit : Nat := 4
/-- Unused, always 1 (R32). -/
abbrev uBit : Nat := 5
/-- Overflow (R33). -/
abbrev vBit : Nat := 6
/-- Negative (R34). -/
abbrev nBit : Nat := 7

/-- `get(bit_index)` on a status byte (R35). -/
def get (p : Byte) (index : Nat) : Bool := p.getLsbD index

/-- `set(bit_index, value)` on a status byte: that bit and no other (R35). -/
def put (p : Byte) (index : Nat) (value : Bool) : Byte :=
  if value then p ||| (1#8 <<< index) else p &&& ~~~(1#8 <<< index)

/-- `SetZN(v)`: Z is whether `v` is 0, N is bit 7 of `v` (R36). -/
def setZN (p v : Byte) : Byte := put (put p zBit (v == 0#8)) nBit (v.getLsbD 7)

/-- The byte BRK and PHP push: B and bit 5 set (R260, R263). -/
def pushedByBreak (p : Byte) : Byte := p ||| 0x30#8

/-- The byte NMI and IRQ entry push: B clear and bit 5 set (R310). -/
def pushedByInterrupt (p : Byte) : Byte := (p &&& 0xEF#8) ||| 0x20#8

/-- What PLP and RTI write to P: bit 4 as 0 and bit 5 as 1, whatever was popped (R31, R32, R261, R265). -/
def pulled (popped : Byte) : Byte := (popped &&& 0xCF#8) ||| 0x20#8

/-- The exact sum of ADC, 0 to 511 (R190). -/
def adcSum (a m : Byte) (carry : Bool) : Nat := a.toNat + m.toNat + Bits.ofBool carry

/-- The result of ADC (R190). -/
def adcResult (a m : Byte) (carry : Bool) : Byte := BitVec.ofNat 8 (adcSum a m carry)

/-- P after ADC: C when the sum exceeds 255, V from `(NOT8(A XOR m) AND (A XOR r))[7]`, then SetZN (R190). -/
def adcStatus (p a m : Byte) (carry : Bool) : Byte :=
  let r := adcResult a m carry
  setZN (put (put p vBit ((~~~(a ^^^ m) &&& (a ^^^ r)).getLsbD 7)) cBit (decide (255 < adcSum a m carry))) r

/-- P after BIT: Z from the AND, N and V copied from the operand (R195). -/
def bitStatus (p a m : Byte) : Byte :=
  put (put (put p zBit ((a &&& m) == 0#8)) nBit (m.getLsbD 7)) vBit (m.getLsbD 6)

/-- P after a compare: C is `m <= reg` unsigned, Z equality, N bit 7 of the truncated difference (R230). -/
def compareStatus (p reg m : Byte) : Byte :=
  put (put (put p cBit (decide (m.toNat ≤ reg.toNat))) zBit (reg == m)) nBit ((reg - m).getLsbD 7)

/-- The four shifts (R221 to R224). -/
inductive Shift where
  | asl
  | lsr
  | rol
  | ror
  deriving DecidableEq, Repr

/-- The bit that leaves (R220). -/
def shiftOut (k : Shift) (v : Byte) : Bool :=
  match k with
  | .asl | .rol => v.getLsbD 7
  | .lsr | .ror => v.getLsbD 0

/-- The shifted value; the rotates take the old carry in (R221 to R224). -/
def shiftResult (k : Shift) (v : Byte) (carry : Bool) : Byte :=
  match k with
  | .asl => v <<< 1
  | .lsr => v >>> 1
  | .rol => (v <<< 1) ||| BitVec.ofNat 8 (Bits.ofBool carry)
  | .ror => (v >>> 1) ||| BitVec.ofNat 8 (Bits.ofBool carry * 128)

/-- P after a shift: C is the bit that left, then SetZN of the result (R220). -/
def shiftStatus (k : Shift) (p v : Byte) (carry : Bool) : Byte :=
  setZN (put p cBit (shiftOut k v)) (shiftResult k v carry)

end Sys2Proof.Machine.Flags
end

