-- ==== Sys2Proof/Config.lean ====
section
/-! DEFINITION. What the environment of the core fixes (spec/00_scope.md R6): the open parameters MEM, RAM_MIRRORING and
TIMING as plain data, and the free functions for the part of MEM that the spec leaves to other units. -/

namespace Sys2Proof.Config

/-- What an address of memory that nothing has written reads as.
DESIGN CHOICE (notes/assumptions/1): the spec gives memory no contents at reset (R343). unsafe for a claim that
leans on the bytes of the reset state's memory. -/
def unlistedByte : Byte := 0x00#8

/-- What a region of memory cells does with a store (R61, R68). -/
inductive StorePolicy where
  /-- The byte goes into the cell (RAM). -/
  | keeps
  /-- The store is accepted and changes nothing (ROM). -/
  | ignores
  /-- The port answers a MemoryFault. -/
  | refuses
  deriving DecidableEq, Repr

/-- What answers in a region of the address space (R61, R68). -/
inductive RegionKind where
  /-- Memory: `size` cells from number `cell` on, repeated through the region; size 0 means that none repeats. -/
  | memory (cell size : Nat) (stores : StorePolicy)
  /-- A unit behind the port whose behaviour the spec leaves open: a mapper, a device (notes/assumptions/3). -/
  | external
  /-- Every access is a MemoryFault. -/
  | absent
  deriving DecidableEq, Repr

/-- The addresses `first` to `last` and what answers there. -/
structure Region where
  first : Nat
  last : Nat
  kind : RegionKind
  deriving DecidableEq, Repr

/-- The map part of the parameter MEM (R6, R68): any assignment of regions, first match, no region a MemoryFault. -/
inductive MemMap where
  /-- The documented map of R68: the open Boolean RAM_MIRRORING, and the cartridge's regions from 0x4020 on. -/
  | documented (ramMirroring : Bool) (cartridge : List Region)
  /-- Another implementation of the port. -/
  | regions (all : List Region)
  deriving DecidableEq, Repr

/-- All 65536 addresses are RAM (spec/95_test_vectors.md, "flat MEM"). -/
def flat : MemMap := .regions [⟨0x0000, 0xFFFF, .memory 0x0000 0x10000 .keeps⟩]

/-- A cartridge that behaves as RAM in the whole mapper window, the convention of spec/95_test_vectors.md. -/
def ramCartridge : List Region := [⟨0x4020, 0xFFFF, .memory 0x4020 0xBFE0 .keeps⟩]

/-- An access that an external region has answered. -/
inductive Access where
  | read (address : Word)
  | write (address : Word) (value : Byte)
  deriving DecidableEq, Repr

/-- What an external region answers to a load after the accesses it has answered, newest first; none is a MemoryFault.
A free function (notes/assumptions/3): the spec leaves these units out (R4) and the core takes whatever the port
returns (R66, R71). safe for a unit that changes only when the core accesses it. -/
opaque externalLoad : List Access → Word → Option Byte

/-- Whether an external region accepts a store after the accesses it has answered; if not, a MemoryFault.
A free function (notes/assumptions/3). safe for a unit that changes only when the core accesses it. -/
opaque externalStore : List Access → Word → Byte → Bool

/-- Base cycles and page penalty of an opcode (R103, R110). -/
structure Cost where
  base : Nat
  penalty : Nat
  deriving DecidableEq, Repr

/-- The open parameter TIMING (R6, D21, U15), as what differs from the numbers of R110. -/
structure Timing where
  /-- The opcodes whose cost is not that of R110; the first entry for an opcode counts. -/
  costs : List (Byte × Cost)
  /-- The extra cycles of a taken branch (R240). -/
  branchTaken : Nat
  /-- The further extra cycles when the target is in another page (R240). -/
  branchCrossed : Nat
  /-- The cycles of an interrupt entry (R132, R310). -/
  entry : Nat
  deriving DecidableEq, Repr

/-- The default of TIMING: the table of R110, one cycle and one more for a branch, 7 for an interrupt entry. -/
def standardTiming : Timing := ⟨[], 1, 1, 7⟩

end Sys2Proof.Config
end

