-- ==== Sys2Proof/Machine/Memory.lean ====
section
/-! DEFINITION. Memory as a list of cells in one canonical form, and the address map of the Memory collaborator
(spec/20_memory.md R60, R61, R68). -/

namespace Sys2Proof.Machine

/-- The bytes of the memory regions: (cell, byte) pairs, cells rising, unlisted cells read `unlistedByte`. -/
abbrev Memory := List Host.Cell

/-- The byte of a cell. -/
def Memory.read : Memory → Nat → Byte
  | [], _ => Config.unlistedByte
  | (k, b) :: rest, c => if k = c then b else Memory.read rest c

/-- The memory without any entry for a cell. -/
def Memory.erase : Memory → Nat → Memory
  | [], _ => []
  | (k, b) :: rest, c => if k = c then Memory.erase rest c else (k, b) :: Memory.erase rest c

/-- An entry put before the first one with a higher cell number. -/
def Memory.insert : Memory → Nat → Byte → Memory
  | [], c, v => [(c, v)]
  | (k, b) :: rest, c, v => if c < k then (c, v) :: (k, b) :: rest else (k, b) :: Memory.insert rest c v

/-- The memory after a byte is written to a cell; writing what an unlisted cell reads as removes the entry. -/
def Memory.write (m : Memory) (c : Nat) (v : Byte) : Memory :=
  if v = Config.unlistedByte then Memory.erase m c else Memory.insert (Memory.erase m c) c v

/-- The canonical form: cells strictly rising, inside the address space, none listed with the unlisted byte. -/
abbrev Memory.wf (m : Memory) : Prop :=
  m.Pairwise (fun p q => p.1 < q.1) ∧ ∀ p ∈ m, p.1 < 65536 ∧ p.2 ≠ Config.unlistedByte

/-- Where an access to an address goes (R61, R68). -/
inductive Place where
  /-- To a memory cell. -/
  | cell (number : Nat)
  /-- To an external region. -/
  | external
  /-- Nowhere: a MemoryFault. -/
  | absent
  deriving DecidableEq, Repr

/-- The first region that holds an address. -/
def regionAt (regions : List Config.Region) (a : Nat) : Option Config.Region :=
  regions.find? (fun r => decide (r.first ≤ a ∧ a ≤ r.last))

/-- The memory cell of an address in a region of cells, repeated every `size` addresses. -/
def regionCell (first cell size a : Nat) : Nat := (cell + (a - first) % size) % 65536

/-- Where a list of regions sends an address. -/
def placeIn (regions : List Config.Region) (a : Nat) : Place :=
  match regionAt regions a with
  | none => .absent
  | some r =>
    match r.kind with
    | .memory cell size _ => .cell (regionCell r.first cell size a)
    | .external => .external
    | .absent => .absent

/-- What a list of regions does with a store to a cell at an address. -/
def policyIn (regions : List Config.Region) (a : Nat) : Config.StorePolicy :=
  match regionAt regions a with
  | none => .refuses
  | some r =>
    match r.kind with
    | .memory _ _ stores => stores
    | .external | .absent => .refuses

/-- Where a map sends an address (R68). On the documented map RAM is below 0x0800, its mirror up to 0x1FFF is the same
RAM taken mod 0x0800, 0x2000 to 0x401F is unimplemented and the rest is the cartridge's. -/
def Memory.placeOf (m : Config.MemMap) (a : Word) : Place :=
  match m with
  | .regions all => placeIn all a.toNat
  | .documented mirroring cartridge =>
    if a.toNat < 0x0800 then .cell a.toNat
    else if a.toNat < 0x2000 then (if mirroring then .cell (a.toNat % 0x0800) else .absent)
    else if a.toNat < 0x4020 then .absent
    else placeIn cartridge a.toNat

/-- What a map does with a store to a cell at an address (R68). -/
def Memory.policyOf (m : Config.MemMap) (a : Word) : Config.StorePolicy :=
  match m with
  | .regions all => policyIn all a.toNat
  | .documented _ cartridge => if a.toNat < 0x4020 then .keeps else policyIn cartridge a.toNat

/-- What the port does with a store (R61, R68). -/
inductive StoreEffect where
  /-- The byte goes into this cell. -/
  | writes (cell : Nat)
  /-- The store is accepted and changes nothing. -/
  | dropped
  /-- The store goes to an external region. -/
  | external
  /-- The port answers a MemoryFault. -/
  | refused
  deriving DecidableEq, Repr

/-- The effect of a store to an address (R68). -/
def Memory.storeEffect (m : Config.MemMap) (a : Word) : StoreEffect :=
  match Memory.placeOf m a with
  | .absent => .refused
  | .external => .external
  | .cell c =>
    match Memory.policyOf m a with
    | .keeps => .writes c
    | .ignores => .dropped
    | .refuses => .refused

end Sys2Proof.Machine
end

