-- ==== Sys2Proof/Machine/State.lean ====
section
/-! DEFINITION. The state of the machine, the ways a step can stop, and the state after reset
(spec/10_state.md R20 to R42, spec/60_exceptions.md R300 to R305). -/

namespace Sys2Proof.Machine

/-- The `kind` an UnimplementedMemory records: read or write (R304). -/
inductive AccessKind where
  | read
  | write
  deriving DecidableEq, Repr

/-- The four fatal errors (R300 to R305). They are reported to the host, not to the program. -/
inductive Fault where
  /-- Code (a), R301. Raised by `execIllegal` for the 105 unassigned opcode bytes. safe: the spec ends the run. -/
  | illegalOpcode (opcode : Byte) (address : Word)
  /-- Code (b), R302. Raised by `State.setBit` and `State.getBit` for an index above 7; no instruction raises it. safe. -/
  | invalidStatusBit (index : Nat)
  /-- Code (c), R303. Raised by `Located.save` on an immediate operand; no instruction raises it. safe. -/
  | immediateStore
  /-- Code (d), R304. Raised by `State.load` and `State.store` where the Memory port refuses. safe: the spec ends the run. -/
  | unimplementedMemory (address : Word) (kind : AccessKind)
  deriving DecidableEq, Repr

/-- Reasons the model refuses a step. -/
inductive Refusal where
  /-- An instruction without a meaning in this model; raised by no arm of `exec`. safe. -/
  | notModelled (mnemonic : String)
  deriving DecidableEq, Repr

/-- INTERRUPT, the pending request: 0 NONE, 1 NMI, 2 IRQ; values 3 to 255 are produced by no rule (R39, U5). -/
inductive Interrupt where
  | none
  | nmi
  | irq
  deriving DecidableEq, Repr

/-- Everything the spec gives the machine (R20, R41, R60), and the parameters MEM and TIMING (R6).
No register overlaps another and none is banked (R20). -/
structure State where
  /-- PC, 16 bits (R25). -/
  pc : Word
  /-- SP, 8 bits (R24). -/
  sp : Byte
  /-- A, 8 bits (R21). -/
  a : Byte
  /-- X, 8 bits (R22). -/
  x : Byte
  /-- Y, 8 bits (R23). -/
  y : Byte
  /-- P, 8 bits: C Z I D B U V N in bits 0 to 7 (R26). -/
  p : Byte
  /-- CYCLES, taken as an unbounded natural number (R38, D22; notes/assumptions/5). -/
  cycles : Nat
  /-- INTERRUPT (R39). -/
  interrupt : Interrupt
  /-- STALL, 8 bits (R40). -/
  stall : Byte
  /-- The fault status: whether a fatal fault is recorded, and which (R41, R305). -/
  fault : Option Fault
  /-- The bytes of the memory regions behind the Memory port (R60, R61). -/
  mem : Memory
  /-- The MODEL's field for the inside of the units behind the port (R66, R68): the accesses that external regions have
  answered, newest first (notes/assumptions/3). -/
  external : List Config.Access
  /-- The MODEL's field for the map of the parameter MEM (R6, R68): constant while the machine runs. -/
  map : Config.MemMap
  /-- The MODEL's field for the parameter TIMING (R6, R9): constant while the machine runs. -/
  timing : Config.Timing
  deriving DecidableEq, Repr

/-- The machine right after construction (R42). Memory lists nothing (notes/assumptions/1), the map is the
documented one with mirroring on and a cartridge of RAM (notes/assumptions/2), and the cycle numbers are the default of
R110 (notes/assumptions/4). -/
def State.reset : State where
  pc := 0x0000#16
  sp := 0xFF#8
  a := 0x00#8
  x := 0x00#8
  y := 0x00#8
  p := 0x20#8
  cycles := 0
  interrupt := .none
  stall := 0x00#8
  fault := none
  mem := []
  external := []
  map := .documented true Config.ramCartridge
  timing := Config.standardTiming

end Sys2Proof.Machine
end

