-- ==== Sys2Proof/Machine/Ops.lean ====
section
/-! DEFINITION. The named operations over registers and memory: the Memory port, register and flag access, the stack,
taking an interrupt or BRK and returning from one, the poll and the stall step
(spec/20_memory.md, spec/40_engine_addressing.md R131, R136 to R138, spec/60_exceptions.md). -/

namespace Sys2Proof.Machine

/-! ### Register writes -/

/-- `PC <- v` (R12). -/
def State.setPC (s : State) (v : Word) : State := { s with pc := v }
/-- `SP <- v` (R12). -/
def State.setSP (s : State) (v : Byte) : State := { s with sp := v }
/-- `A <- v` (R12). -/
def State.setA (s : State) (v : Byte) : State := { s with a := v }
/-- `X <- v` (R12). -/
def State.setX (s : State) (v : Byte) : State := { s with x := v }
/-- `Y <- v` (R12). -/
def State.setY (s : State) (v : Byte) : State := { s with y := v }
/-- The status byte replaced as a whole. -/
def State.setP (s : State) (v : Byte) : State := { s with p := v }
/-- `CYCLES <- CYCLES + n` (R38). -/
def State.addCycles (s : State) (n : Nat) : State := { s with cycles := s.cycles + n }
/-- `INTERRUPT <- v` (R39). -/
def State.setInterrupt (s : State) (v : Interrupt) : State := { s with interrupt := v }
/-- `STALL <- v` (R40). -/
def State.setStall (s : State) (v : Byte) : State := { s with stall := v }
/-- The fault status recorded or cleared (R41). -/
def State.setFault (s : State) (v : Option Fault) : State := { s with fault := v }
/-- Memory replaced as a whole. -/
def State.setMem (s : State) (v : Memory) : State := { s with mem := v }
/-- The accesses that external regions have answered, replaced as a whole. -/
def State.setExternal (s : State) (v : List Config.Access) : State := { s with external := v }

/-! ### Flags -/

/-- C, `P[0]` (R27). -/
def State.c (s : State) : Bool := Flags.get s.p Flags.cBit
/-- Z, `P[1]` (R28). -/
def State.z (s : State) : Bool := Flags.get s.p Flags.zBit
/-- I, `P[2]` (R29). -/
def State.i (s : State) : Bool := Flags.get s.p Flags.iBit
/-- D, `P[3]` (R30). -/
def State.d (s : State) : Bool := Flags.get s.p Flags.dBit
/-- V, `P[6]` (R33). -/
def State.v (s : State) : Bool := Flags.get s.p Flags.vBit
/-- N, `P[7]` (R34). -/
def State.n (s : State) : Bool := Flags.get s.p Flags.nBit

/-- `SetZN(v)` on the live status (R36). -/
def State.setZN (s : State) (v : Byte) : State := s.setP (Flags.setZN s.p v)

/-- `set(bit_index, value)`, InvalidStatusBit above 7 (R35, R302). -/
def State.setBit (s : State) (index : Nat) (value : Bool) : Except Fault State :=
  if 7 < index then .error (.invalidStatusBit index) else .ok (s.setP (Flags.put s.p index value))

/-- `get(bit_index)`, InvalidStatusBit above 7 (R35, R302). -/
def State.getBit (s : State) (index : Nat) : Except Fault Bool :=
  if 7 < index then .error (.invalidStatusBit index) else .ok (Flags.get s.p index)

/-! ### The Memory port -/

/-- What the port answers to `load(address)`: the byte there, or UnimplementedMemory (R61, R69, R304). -/
def State.load (s : State) (a : Word) : Except Fault Byte :=
  match Memory.placeOf s.map a with
  | .cell c => .ok (Memory.read s.mem c)
  | .external =>
    match Config.externalLoad s.external a with
    | some v => .ok v
    | none => .error (.unimplementedMemory a .read)
  | .absent => .error (.unimplementedMemory a .read)

/-- The state after a load that the port has answered: memory does not change, an external region has one access more
(R66). -/
def State.loaded (s : State) (a : Word) : State :=
  match Memory.placeOf s.map a with
  | .external => s.setExternal (.read a :: s.external)
  | .cell _ | .absent => s

/-- `MemRead(address, 1)`: the byte, and the state after the access (R61, R66). -/
def State.read (s : State) (a : Word) : Except Fault (Byte × State) := do
  let v ← s.load a
  return (v, s.loaded a)

/-- `store(address, value)`: UnimplementedMemory where the port refuses (R61, R69, R304). -/
def State.store (s : State) (a : Word) (v : Byte) : Except Fault State :=
  match Memory.storeEffect s.map a with
  | .writes c => .ok (s.setMem (Memory.write s.mem c v))
  | .dropped => .ok s
  | .external =>
    if Config.externalStore s.external a v then .ok (s.setExternal (.write a v :: s.external))
    else .error (.unimplementedMemory a .write)
  | .refused => .error (.unimplementedMemory a .write)

/-- `load_zero_page(address)` (R61, R62). -/
def State.readZeroPage (s : State) (a : Byte) : Except Fault (Byte × State) := s.read (Bits.zext16 a)

/-- `store_zero_page(address, value)` (R61, R62). -/
def State.storeZeroPage (s : State) (a v : Byte) : Except Fault State := s.store (Bits.zext16 a) v

/-- Two bytes read, the low one first, as a word (R63). -/
def State.readWord (s : State) (lowAddress highAddress : Word) : Except Fault (Word × State) := do
  let (lo, t) ← s.read lowAddress
  let (hi, u) ← t.read highAddress
  return (Bits.join hi lo, u)

/-- `Read16(addr)`, low byte read first (R13). -/
def State.read16 (s : State) (a : Word) : Except Fault (Word × State) := s.readWord a (a + 1#16)

/-- The word at a zero-page pointer; both bytes are in page 0 (R149, R150). -/
def State.readPointer (s : State) (p : Byte) : Except Fault (Word × State) :=
  s.readWord (Bits.zext16 p) (Bits.zext16 (p + 1#8))

/-- The address of the high byte of a JMP indirect pointer: the next one in the same page (R291). -/
def nextInPage (ptr : Word) : Word := (ptr &&& 0xFF00#16) ||| ((ptr + 1#16) &&& 0x00FF#16)

/-- The word at a JMP indirect pointer; the high byte comes from the same page (R291). -/
def State.readInPage (s : State) (ptr : Word) : Except Fault (Word × State) := s.readWord ptr (nextInPage ptr)

/-! ### The stack -/

/-- The stack address `0x0100 + SP` (R24). -/
def stackAddress (sp : Byte) : Word := 0x0100#16 + Bits.zext16 sp

/-- `Push(v)`: the write first, then the decrement (R136). -/
def State.push (s : State) (v : Byte) : Except Fault State := do
  let t ← s.store (stackAddress s.sp) v
  return t.setSP (s.sp - 1#8)

/-- `Pop()`: the increment first, then the read (R137). -/
def State.pop (s : State) : Except Fault (Byte × State) := do
  let (v, t) ← s.read (stackAddress (s.sp + 1#8))
  return (v, t.setSP (s.sp + 1#8))

/-- `Push16(w)`: the high byte first (R138). -/
def State.push16 (s : State) (w : Word) : Except Fault State := do
  let t ← s.push (Bits.hiByte w)
  t.push (Bits.loByte w)

/-- `Pop16()`: the low byte first (R138). -/
def State.pop16 (s : State) : Except Fault (Word × State) := do
  let (lo, t) ← s.pop
  let (hi, u) ← t.pop
  return (Bits.join hi lo, u)

/-! ### Entry and return -/

/-- The NMI vector (R67, R310). -/
def nmiVector : Word := 0xFFFA#16
/-- The vector real hardware loads at reset; this core never reads it (R67). -/
def resetVector : Word := 0xFFFC#16
/-- The IRQ and BRK vector (R67, R260, R310). -/
def irqVector : Word := 0xFFFE#16

/-- What BRK and interrupt entry share: push the address and the status copy, set I, load PC from the vector
(R260, R310). -/
def State.enter (s : State) (ret : Word) (pushed : Byte) (vector : Word) : Except Fault State := do
  let t ← s.push16 ret
  let u ← t.push pushed
  let w := u.setP (Flags.put u.p Flags.iBit true)
  let (target, t') ← w.read16 vector
  return t'.setPC target

/-- What RTI does: pop the status, then the address (R261, R312). -/
def State.leave (s : State) : Except Fault State := do
  let (p, t) ← s.pop
  let (target, u) ← (t.setP (Flags.pulled p)).pop16
  return u.setPC target

/-- The kind of request a poll can select (R309). -/
inductive InterruptKind where
  | nmi
  | irq
  deriving DecidableEq, Repr

/-- The vector of a selected request (R310). -/
def vectorOf (k : InterruptKind) : Word :=
  match k with
  | .nmi => nmiVector
  | .irq => irqVector

/-- `Poll()`: NMI first, then an unmasked IRQ; a masked IRQ stays pending (R309). -/
def State.poll (s : State) : Option InterruptKind :=
  match s.interrupt with
  | .nmi => some .nmi
  | .irq => if s.i then none else some .irq
  | .none => none

/-- The entry sequence for a selected request (R132, R310). -/
def State.interruptEntry (s : State) (k : InterruptKind) : Except Fault State := do
  let t ← (s.setInterrupt .none).enter s.pc (Flags.pushedByInterrupt s.p) (vectorOf k)
  return t.addCycles s.timing.entry

/-- A stall step (R131). -/
def State.stallStep (s : State) : State := (s.setStall (s.stall - 1#8)).addCycles 1

/-! ### The outcome of a step -/

/-- A fatal fault ends the step; otherwise the step completes with all its writes (R135, R305). -/
def finish (r : Except Fault State) : Host.Outcome State Fault Refusal :=
  match r with
  | .ok t => .next t
  | .error f => .fault f

end Sys2Proof.Machine
end

