-- ==== Sys2Proof/Machine/Operands.lean ====
section
/-! DEFINITION. The addressing-mode selector (spec/40_engine_addressing.md R140 to R155): from an AddressingMode value
to the place of its operand, and loading from and saving to that place. -/

namespace Sys2Proof.Machine

/-- The place of an operand once its address is computed. The pointer bytes of an indirect mode are read once, and
`load` and `save` of one instruction use the same place (R140). -/
inductive Located where
  /-- The accumulator (R141). -/
  | accumulator
  /-- A literal (R142). -/
  | literal (value : Byte)
  /-- The memory byte at an effective address, and whether indexing changed the address's page (R154). -/
  | memory (ea : Word) (crossed : Bool)
  deriving DecidableEq, Repr

/-- The place `base + index` of an indexed absolute mode or of the indirect-indexed mode, wrapping at 65536; crossed when
the high bytes of base and address differ (R147, R148, R150, R154). -/
def indexed (base : Word) (index : Byte) : Located :=
  let ea := base + Bits.zext16 index
  .memory ea (Bits.hiByte base != Bits.hiByte ea)

/-- A place in the zero page (R143 to R145). -/
def zeroPagePlace (a : Byte) : Located := .memory (Bits.zext16 a) false

/-- Where an AddressingMode value finds its operand, and the state after any pointer bytes are read (R141 to R150). -/
def locate (am : AddressingMode) (s : State) : Except Fault (Located × State) :=
  match am with
  | .accumulator => .ok (.accumulator, s)
  | .immediate v => .ok (.literal v, s)
  | .zeroPage b => .ok (zeroPagePlace b, s)
  | .zeroPageX b => .ok (zeroPagePlace (b + s.x), s)
  | .zeroPageY b => .ok (zeroPagePlace (b + s.y), s)
  | .absolute w => .ok (.memory w false, s)
  | .absoluteX w => .ok (indexed w s.x, s)
  | .absoluteY w => .ok (indexed w s.y, s)
  | .indexedIndirect b => do
    let (ea, t) ← s.readPointer (b + s.x)
    return (.memory ea false, t)
  | .indirectIndexed b => do
    let (base, t) ← s.readPointer b
    return (indexed base s.y, t)

/-- `crossed` of a place (R154). -/
def Located.crossed (l : Located) : Bool :=
  match l with
  | .memory _ crossed => crossed
  | .accumulator | .literal _ => false

/-- `ea()` of a place; the Accumulator and Immediate variants have none (R141, R142, U7). -/
def Located.ea (l : Located) : Option Word :=
  match l with
  | .memory ea _ => some ea
  | .accumulator | .literal _ => none

/-- `load()` at a place, and the state after it (R141 to R150). -/
def Located.load (l : Located) (s : State) : Except Fault (Byte × State) :=
  match l with
  | .accumulator => .ok (s.a, s)
  | .literal v => .ok (v, s)
  | .memory ea _ => s.read ea

/-- `save(v)` at a place; a literal cannot be written (R142, R303). -/
def Located.save (l : Located) (v : Byte) (s : State) : Except Fault State :=
  match l with
  | .accumulator => .ok (s.setA v)
  | .literal _ => .error .immediateStore
  | .memory ea _ => s.store ea v

/-- `am.load()` (R140). -/
def loadMode (am : AddressingMode) (s : State) : Except Fault (Byte × State) := do
  let (l, t) ← locate am s
  l.load t

/-- `am.save(v)` (R140). -/
def saveMode (am : AddressingMode) (v : Byte) (s : State) : Except Fault State := do
  let (l, t) ← locate am s
  l.save v t

/-- `am.ea()`, none for the two variants without an address (R140, U7). -/
def effectiveAddress (am : AddressingMode) (s : State) : Except Fault (Option Word × State) := do
  let (l, t) ← locate am s
  return (l.ea, t)

end Sys2Proof.Machine
end

