-- ==== Sys2Proof/Machine/Engine.lean ====
section
/-! DEFINITION. What every instruction step shares: fetching, advancing PC past the instruction before it executes, the
cycle cost at retirement, and the shapes of operation that several instructions have
(spec/40_engine_addressing.md R133, R134). -/

namespace Sys2Proof.Machine

/-- Fetch and decode: the opcode byte at PC, then as many operand bytes as its format has, and the state after these
reads, whose PC is still the address of the opcode (R133). -/
def fetch (s : State) : Except Fault (Instr × State) := do
  let (op, t) ← s.read s.pc
  match (tableEntry op).length with
  | 1 => return (decodeOpcode op 0#8 0#8, t)
  | 2 =>
    let (b1, u) ← t.read (s.pc + 1#16)
    return (decodeOpcode op b1 0#8, u)
  | _ =>
    let (b1, u) ← t.read (s.pc + 1#16)
    let (b2, v) ← u.read (s.pc + 2#16)
    return (decodeOpcode op b1 b2, v)

/-- `pc_next`, the address after an instruction that starts at PC (R14, R133). -/
def nextPC (i : Instr) (s : State) : Word := s.pc + BitVec.ofNat 16 (lengthOf i)

/-- Base cycles and page penalty of an instruction: the parameter TIMING's own, else those of the table of R110 (R6,
R103, R110). -/
def costOf (timing : Config.Timing) (i : Instr) : Config.Cost :=
  match timing.costs.lookup (opcodeOf i) with
  | some c => c
  | none => ⟨(entryOf i).base, (entryOf i).penalty⟩

/-- The base cost, the page penalty if the address crossed a page, and any further cycles (R134). -/
def cycleCost (timing : Config.Timing) (i : Instr) (crossed : Bool) (extra : Nat) : Nat :=
  (costOf timing i).base + (if crossed then (costOf timing i).penalty else 0) + extra

/-- An instruction from Execute on: `operation` runs on the state whose PC is `pc_next` and answers the new state with
the cost of the step (R133, R134). -/
def execute (i : Instr) (operation : State → Except Fault (State × Nat)) (s : State) :
    Host.Outcome State Fault Refusal :=
  finish (do
    let (t, cost) ← operation (s.setPC (nextPC i s))
    return t.addCycles cost)

/-- An operation on registers alone. -/
def onRegisters (i : Instr) (f : State → State) (s : State) : Host.Outcome State Fault Refusal :=
  execute i (fun t => .ok (f t, cycleCost t.timing i false 0)) s

/-- An operation that may fault and has no operand. -/
def onStack (i : Instr) (f : State → Except Fault State) (s : State) : Host.Outcome State Fault Refusal :=
  execute i (fun t => do
    let u ← f t
    return (u, cycleCost t.timing i false 0)) s

/-- An operation that loads its operand and then changes registers alone. -/
def onOperand (i : Instr) (am : AddressingMode) (f : Byte → State → State) (s : State) :
    Host.Outcome State Fault Refusal :=
  execute i (fun t => do
    let (l, u) ← locate am t
    let (m, v) ← l.load u
    return (f m v, cycleCost t.timing i l.crossed 0)) s

/-- A store of a byte to the operand (R163 to R165). -/
def storeOperand (i : Instr) (am : AddressingMode) (v : State → Byte) (s : State) :
    Host.Outcome State Fault Refusal :=
  execute i (fun t => do
    let (l, u) ← locate am t
    let w ← l.save (v t) u
    return (w, cycleCost t.timing i l.crossed 0)) s

/-- A load, a save of the result to the same place, then the status byte; both are computed from the loaded byte and the
state before the save (R65, R196, R220). -/
def modifyOperand (i : Instr) (am : AddressingMode) (result status : Byte → State → Byte) (s : State) :
    Host.Outcome State Fault Refusal :=
  execute i (fun t => do
    let (l, u) ← locate am t
    let (m, v) ← l.load u
    let w ← l.save (result m t) v
    return (w.setP (status m t), cycleCost t.timing i l.crossed 0)) s

end Sys2Proof.Machine
end

