-- ==== Sys2Proof/Machine/Arith.lean ====
section
/-! DEFINITION. Arithmetic, logic, bit test, increment and decrement instructions (spec/42_arithmetic_logic.md R190 to R202).
None of them reads the D flag (R30). -/

namespace Sys2Proof.Machine

/-- The accumulator and P after adding `m` with the carry (R190). -/
def addToA (m : Byte) (t : State) : State :=
  (t.setA (Flags.adcResult t.a m t.c)).setP (Flags.adcStatus t.p t.a m t.c)

/-- ADC: `A <- A + m + C` with C, V, Z, N (R190). -/
def opAdc (i : Instr) (am : AddressingMode) (s : State) : Host.Outcome State Fault Refusal :=
  onOperand i am addToA s

/-- ADC IMM, opcode 0x69 (R190). -/
def execAdcImm (value : Byte) (s : State) : Host.Outcome State Fault Refusal :=
  opAdc (.adcImm value) (.immediate value) s

/-- ADC ZP, opcode 0x65 (R190). -/
def execAdcZp (address : Byte) (s : State) : Host.Outcome State Fault Refusal :=
  opAdc (.adcZp address) (.zeroPage address) s

/-- ADC ZPX, opcode 0x75 (R190). -/
def execAdcZpx (address : Byte) (s : State) : Host.Outcome State Fault Refusal :=
  opAdc (.adcZpx address) (.zeroPageX address) s

/-- ADC ABS, opcode 0x6D (R190). -/
def execAdcAbs (address : Word) (s : State) : Host.Outcome State Fault Refusal :=
  opAdc (.adcAbs address) (.absolute address) s

/-- ADC ABX, opcode 0x7D (R190). -/
def execAdcAbx (address : Word) (s : State) : Host.Outcome State Fault Refusal :=
  opAdc (.adcAbx address) (.absoluteX address) s

/-- ADC ABY, opcode 0x79 (R190). -/
def execAdcAby (address : Word) (s : State) : Host.Outcome State Fault Refusal :=
  opAdc (.adcAby address) (.absoluteY address) s

/-- ADC IZX, opcode 0x61 (R190). -/
def execAdcIzx (address : Byte) (s : State) : Host.Outcome State Fault Refusal :=
  opAdc (.adcIzx address) (.indexedIndirect address) s

/-- ADC IZY, opcode 0x71 (R190). -/
def execAdcIzy (address : Byte) (s : State) : Host.Outcome State Fault Refusal :=
  opAdc (.adcIzy address) (.indirectIndexed address) s

/-- SBC: ADC of the complemented operand with the same carry-in (R191). -/
def opSbc (i : Instr) (am : AddressingMode) (s : State) : Host.Outcome State Fault Refusal :=
  onOperand i am (fun m t => addToA (m ^^^ 0xFF#8) t) s

/-- SBC IMM, opcode 0xE9 (R191). -/
def execSbcImm (value : Byte) (s : State) : Host.Outcome State Fault Refusal :=
  opSbc (.sbcImm value) (.immediate value) s

/-- SBC ZP, opcode 0xE5 (R191). -/
def execSbcZp (address : Byte) (s : State) : Host.Outcome State Fault Refusal :=
  opSbc (.sbcZp address) (.zeroPage address) s

/-- SBC ZPX, opcode 0xF5 (R191). -/
def execSbcZpx (address : Byte) (s : State) : Host.Outcome State Fault Refusal :=
  opSbc (.sbcZpx address) (.zeroPageX address) s

/-- SBC ABS, opcode 0xED (R191). -/
def execSbcAbs (address : Word) (s : State) : Host.Outcome State Fault Refusal :=
  opSbc (.sbcAbs address) (.absolute address) s

/-- SBC ABX, opcode 0xFD (R191). -/
def execSbcAbx (address : Word) (s : State) : Host.Outcome State Fault Refusal :=
  opSbc (.sbcAbx address) (.absoluteX address) s

/-- SBC ABY, opcode 0xF9 (R191). -/
def execSbcAby (address : Word) (s : State) : Host.Outcome State Fault Refusal :=
  opSbc (.sbcAby address) (.absoluteY address) s

/-- SBC IZX, opcode 0xE1 (R191). -/
def execSbcIzx (address : Byte) (s : State) : Host.Outcome State Fault Refusal :=
  opSbc (.sbcIzx address) (.indexedIndirect address) s

/-- SBC IZY, opcode 0xF1 (R191). -/
def execSbcIzy (address : Byte) (s : State) : Host.Outcome State Fault Refusal :=
  opSbc (.sbcIzy address) (.indirectIndexed address) s

/-- AND: `A <- A AND am.load(); SetZN(A)` (R192). -/
def opAnd (i : Instr) (am : AddressingMode) (s : State) : Host.Outcome State Fault Refusal :=
  onOperand i am (fun m t => (t.setA (t.a &&& m)).setZN (t.a &&& m)) s

/-- AND IMM, opcode 0x29 (R192). -/
def execAndImm (value : Byte) (s : State) : Host.Outcome State Fault Refusal :=
  opAnd (.andImm value) (.immediate value) s

/-- AND ZP, opcode 0x25 (R192). -/
def execAndZp (address : Byte) (s : State) : Host.Outcome State Fault Refusal :=
  opAnd (.andZp address) (.zeroPage address) s

/-- AND ZPX, opcode 0x35 (R192). -/
def execAndZpx (address : Byte) (s : State) : Host.Outcome State Fault Refusal :=
  opAnd (.andZpx address) (.zeroPageX address) s

/-- AND ABS, opcode 0x2D (R192). -/
def execAndAbs (address : Word) (s : State) : Host.Outcome State Fault Refusal :=
  opAnd (.andAbs address) (.absolute address) s

/-- AND ABX, opcode 0x3D (R192). -/
def execAndAbx (address : Word) (s : State) : Host.Outcome State Fault Refusal :=
  opAnd (.andAbx address) (.absoluteX address) s

/-- AND ABY, opcode 0x39 (R192). -/
def execAndAby (address : Word) (s : State) : Host.Outcome State Fault Refusal :=
  opAnd (.andAby address) (.absoluteY address) s

/-- AND IZX, opcode 0x21 (R192). -/
def execAndIzx (address : Byte) (s : State) : Host.Outcome State Fault Refusal :=
  opAnd (.andIzx address) (.indexedIndirect address) s

/-- AND IZY, opcode 0x31 (R192). -/
def execAndIzy (address : Byte) (s : State) : Host.Outcome State Fault Refusal :=
  opAnd (.andIzy address) (.indirectIndexed address) s

/-- ORA: `A <- A OR am.load(); SetZN(A)` (R193). -/
def opOra (i : Instr) (am : AddressingMode) (s : State) : Host.Outcome State Fault Refusal :=
  onOperand i am (fun m t => (t.setA (t.a ||| m)).setZN (t.a ||| m)) s

/-- ORA IMM, opcode 0x09 (R193). -/
def execOraImm (value : Byte) (s : State) : Host.Outcome State Fault Refusal :=
  opOra (.oraImm value) (.immediate value) s

/-- ORA ZP, opcode 0x05 (R193). -/
def execOraZp (address : Byte) (s : State) : Host.Outcome State Fault Refusal :=
  opOra (.oraZp address) (.zeroPage address) s

/-- ORA ZPX, opcode 0x15 (R193). -/
def execOraZpx (address : Byte) (s : State) : Host.Outcome State Fault Refusal :=
  opOra (.oraZpx address) (.zeroPageX address) s

/-- ORA ABS, opcode 0x0D (R193). -/
def execOraAbs (address : Word) (s : State) : Host.Outcome State Fault Refusal :=
  opOra (.oraAbs address) (.absolute address) s

/-- ORA ABX, opcode 0x1D (R193). -/
def execOraAbx (address : Word) (s : State) : Host.Outcome State Fault Refusal :=
  opOra (.oraAbx address) (.absoluteX address) s

/-- ORA ABY, opcode 0x19 (R193). -/
def execOraAby (address : Word) (s : State) : Host.Outcome State Fault Refusal :=
  opOra (.oraAby address) (.absoluteY address) s

/-- ORA IZX, opcode 0x01 (R193). -/
def execOraIzx (address : Byte) (s : State) : Host.Outcome State Fault Refusal :=
  opOra (.oraIzx address) (.indexedIndirect address) s

/-- ORA IZY, opcode 0x11 (R193). -/
def execOraIzy (address : Byte) (s : State) : Host.Outcome State Fault Refusal :=
  opOra (.oraIzy address) (.indirectIndexed address) s

/-- EOR: `A <- A XOR am.load(); SetZN(A)` (R194). -/
def opEor (i : Instr) (am : AddressingMode) (s : State) : Host.Outcome State Fault Refusal :=
  onOperand i am (fun m t => (t.setA (t.a ^^^ m)).setZN (t.a ^^^ m)) s

/-- EOR IMM, opcode 0x49 (R194). -/
def execEorImm (value : Byte) (s : State) : Host.Outcome State Fault Refusal :=
  opEor (.eorImm value) (.immediate value) s

/-- EOR ZP, opcode 0x45 (R194). -/
def execEorZp (address : Byte) (s : State) : Host.Outcome State Fault Refusal :=
  opEor (.eorZp address) (.zeroPage address) s

/-- EOR ZPX, opcode 0x55 (R194). -/
def execEorZpx (address : Byte) (s : State) : Host.Outcome State Fault Refusal :=
  opEor (.eorZpx address) (.zeroPageX address) s

/-- EOR ABS, opcode 0x4D (R194). -/
def execEorAbs (address : Word) (s : State) : Host.Outcome State Fault Refusal :=
  opEor (.eorAbs address) (.absolute address) s

/-- EOR ABX, opcode 0x5D (R194). -/
def execEorAbx (address : Word) (s : State) : Host.Outcome State Fault Refusal :=
  opEor (.eorAbx address) (.absoluteX address) s

/-- EOR ABY, opcode 0x59 (R194). -/
def execEorAby (address : Word) (s : State) : Host.Outcome State Fault Refusal :=
  opEor (.eorAby address) (.absoluteY address) s

/-- EOR IZX, opcode 0x41 (R194). -/
def execEorIzx (address : Byte) (s : State) : Host.Outcome State Fault Refusal :=
  opEor (.eorIzx address) (.indexedIndirect address) s

/-- EOR IZY, opcode 0x51 (R194). -/
def execEorIzy (address : Byte) (s : State) : Host.Outcome State Fault Refusal :=
  opEor (.eorIzy address) (.indirectIndexed address) s

/-- BIT: Z from the AND, N and V from the operand (R195). -/
def opBit (i : Instr) (am : AddressingMode) (s : State) : Host.Outcome State Fault Refusal :=
  onOperand i am (fun m t => t.setP (Flags.bitStatus t.p t.a m)) s

/-- BIT ZP, opcode 0x24 (R195). -/
def execBitZp (address : Byte) (s : State) : Host.Outcome State Fault Refusal :=
  opBit (.bitZp address) (.zeroPage address) s

/-- BIT ABS, opcode 0x2C (R195). -/
def execBitAbs (address : Word) (s : State) : Host.Outcome State Fault Refusal :=
  opBit (.bitAbs address) (.absolute address) s

/-- INC: `r <- (am.load() + 1) mod 256; am.save(r); SetZN(r)` (R196). -/
def opInc (i : Instr) (am : AddressingMode) (s : State) : Host.Outcome State Fault Refusal :=
  modifyOperand i am (fun m _ => m + 1#8) (fun m t => Flags.setZN t.p (m + 1#8)) s

/-- INC ZP, opcode 0xE6 (R196). -/
def execIncZp (address : Byte) (s : State) : Host.Outcome State Fault Refusal :=
  opInc (.incZp address) (.zeroPage address) s

/-- INC ZPX, opcode 0xF6 (R196). -/
def execIncZpx (address : Byte) (s : State) : Host.Outcome State Fault Refusal :=
  opInc (.incZpx address) (.zeroPageX address) s

/-- INC ABS, opcode 0xEE (R196). -/
def execIncAbs (address : Word) (s : State) : Host.Outcome State Fault Refusal :=
  opInc (.incAbs address) (.absolute address) s

/-- INC ABX, opcode 0xFE (R196). -/
def execIncAbx (address : Word) (s : State) : Host.Outcome State Fault Refusal :=
  opInc (.incAbx address) (.absoluteX address) s

/-- DEC: `r <- (am.load() - 1) mod 256; am.save(r); SetZN(r)` (R197). -/
def opDec (i : Instr) (am : AddressingMode) (s : State) : Host.Outcome State Fault Refusal :=
  modifyOperand i am (fun m _ => m - 1#8) (fun m t => Flags.setZN t.p (m - 1#8)) s

/-- DEC ZP, opcode 0xC6 (R197). -/
def execDecZp (address : Byte) (s : State) : Host.Outcome State Fault Refusal :=
  opDec (.decZp address) (.zeroPage address) s

/-- DEC ZPX, opcode 0xD6 (R197). -/
def execDecZpx (address : Byte) (s : State) : Host.Outcome State Fault Refusal :=
  opDec (.decZpx address) (.zeroPageX address) s

/-- DEC ABS, opcode 0xCE (R197). -/
def execDecAbs (address : Word) (s : State) : Host.Outcome State Fault Refusal :=
  opDec (.decAbs address) (.absolute address) s

/-- DEC ABX, opcode 0xDE (R197). -/
def execDecAbx (address : Word) (s : State) : Host.Outcome State Fault Refusal :=
  opDec (.decAbx address) (.absoluteX address) s

/-- INX: `X <- (X + 1) mod 256; SetZN(X)` (R198). -/
def execInx (s : State) : Host.Outcome State Fault Refusal :=
  onRegisters .inx (fun t => (t.setX (t.x + 1#8)).setZN (t.x + 1#8)) s

/-- INY: `Y <- (Y + 1) mod 256; SetZN(Y)` (R199). -/
def execIny (s : State) : Host.Outcome State Fault Refusal :=
  onRegisters .iny (fun t => (t.setY (t.y + 1#8)).setZN (t.y + 1#8)) s

/-- DEX: `X <- (X - 1) mod 256; SetZN(X)` (R200). -/
def execDex (s : State) : Host.Outcome State Fault Refusal :=
  onRegisters .dex (fun t => (t.setX (t.x - 1#8)).setZN (t.x - 1#8)) s

/-- DEY: `Y <- (Y - 1) mod 256; SetZN(Y)` (R201). -/
def execDey (s : State) : Host.Outcome State Fault Refusal :=
  onRegisters .dey (fun t => (t.setY (t.y - 1#8)).setZN (t.y - 1#8)) s

end Sys2Proof.Machine
end

