-- ==== Sys2Proof/Machine/Branch.lean ====
section
/-! DEFINITION. Conditional branches (spec/45_branch.md R240 to R248). -/

namespace Sys2Proof.Machine

/-- The target of a branch: the sign-extended offset added to the already advanced PC (R240). -/
def branchTarget (next : Word) (offset : Byte) : Word := next + Bits.sext16 offset

/-- The extra cycles of a taken branch, and the further ones when the target is in another page: by default one and one
(R240). -/
def branchExtra (timing : Config.Timing) (next target : Word) : Nat :=
  timing.branchTaken + (if Bits.hiByte next = Bits.hiByte target then 0 else timing.branchCrossed)

/-- The common rule of the family: taken when the flag has the wanted value (R240). -/
def opBranch (i : Instr) (flag : State → Bool) (want : Bool) (offset : Byte) (s : State) :
    Host.Outcome State Fault Refusal :=
  execute i (fun t =>
    if flag t = want then
      let target := branchTarget t.pc offset
      .ok (t.setPC target, cycleCost t.timing i false (branchExtra t.timing t.pc target))
    else .ok (t, cycleCost t.timing i false 0)) s

/-- BCC REL, opcode 0x90 (R241). -/
def execBcc (offset : Byte) (s : State) : Host.Outcome State Fault Refusal :=
  opBranch (.bcc offset) State.c false offset s

/-- BCS REL, opcode 0xB0 (R242). -/
def execBcs (offset : Byte) (s : State) : Host.Outcome State Fault Refusal :=
  opBranch (.bcs offset) State.c true offset s

/-- BEQ REL, opcode 0xF0 (R243). -/
def execBeq (offset : Byte) (s : State) : Host.Outcome State Fault Refusal :=
  opBranch (.beq offset) State.z true offset s

/-- BNE REL, opcode 0xD0 (R244). -/
def execBne (offset : Byte) (s : State) : Host.Outcome State Fault Refusal :=
  opBranch (.bne offset) State.z false offset s

/-- BMI REL, opcode 0x30 (R245). -/
def execBmi (offset : Byte) (s : State) : Host.Outcome State Fault Refusal :=
  opBranch (.bmi offset) State.n true offset s

/-- BPL REL, opcode 0x10 (R246). -/
def execBpl (offset : Byte) (s : State) : Host.Outcome State Fault Refusal :=
  opBranch (.bpl offset) State.n false offset s

/-- BVC REL, opcode 0x50 (R247). -/
def execBvc (offset : Byte) (s : State) : Host.Outcome State Fault Refusal :=
  opBranch (.bvc offset) State.v false offset s

/-- BVS REL, opcode 0x70 (R248). -/
def execBvs (offset : Byte) (s : State) : Host.Outcome State Fault Refusal :=
  opBranch (.bvs offset) State.v true offset s

end Sys2Proof.Machine
end

