-- ==== Sys2Proof/Machine/Compare.lean ====
section
/-! DEFINITION. Compare instructions (spec/44_compare.md R230 to R233). -/

namespace Sys2Proof.Machine

/-- The common rule of the family: C, Z, N from `reg - m`, the register unchanged (R230). -/
def opCompare (i : Instr) (reg : State → Byte) (am : AddressingMode) (s : State) : Host.Outcome State Fault Refusal :=
  onOperand i am (fun m t => t.setP (Flags.compareStatus t.p (reg t) m)) s

/-- CMP IMM, opcode 0xC9 (R231). -/
def execCmpImm (value : Byte) (s : State) : Host.Outcome State Fault Refusal :=
  opCompare (.cmpImm value) State.a (.immediate value) s

/-- CMP ZP, opcode 0xC5 (R231). -/
def execCmpZp (address : Byte) (s : State) : Host.Outcome State Fault Refusal :=
  opCompare (.cmpZp address) State.a (.zeroPage address) s

/-- CMP ZPX, opcode 0xD5 (R231). -/
def execCmpZpx (address : Byte) (s : State) : Host.Outcome State Fault Refusal :=
  opCompare (.cmpZpx address) State.a (.zeroPageX address) s

/-- CMP ABS, opcode 0xCD (R231). -/
def execCmpAbs (address : Word) (s : State) : Host.Outcome State Fault Refusal :=
  opCompare (.cmpAbs address) State.a (.absolute address) s

/-- CMP ABX, opcode 0xDD (R231). -/
def execCmpAbx (address : Word) (s : State) : Host.Outcome State Fault Refusal :=
  opCompare (.cmpAbx address) State.a (.absoluteX address) s

/-- CMP ABY, opcode 0xD9 (R231). -/
def execCmpAby (address : Word) (s : State) : Host.Outcome State Fault Refusal :=
  opCompare (.cmpAby address) State.a (.absoluteY address) s

/-- CMP IZX, opcode 0xC1 (R231). -/
def execCmpIzx (address : Byte) (s : State) : Host.Outcome State Fault Refusal :=
  opCompare (.cmpIzx address) State.a (.indexedIndirect address) s

/-- CMP IZY, opcode 0xD1 (R231). -/
def execCmpIzy (address : Byte) (s : State) : Host.Outcome State Fault Refusal :=
  opCompare (.cmpIzy address) State.a (.indirectIndexed address) s

/-- CPX IMM, opcode 0xE0 (R232). -/
def execCpxImm (value : Byte) (s : State) : Host.Outcome State Fault Refusal :=
  opCompare (.cpxImm value) State.x (.immediate value) s

/-- CPX ZP, opcode 0xE4 (R232). -/
def execCpxZp (address : Byte) (s : State) : Host.Outcome State Fault Refusal :=
  opCompare (.cpxZp address) State.x (.zeroPage address) s

/-- CPX ABS, opcode 0xEC (R232). -/
def execCpxAbs (address : Word) (s : State) : Host.Outcome State Fault Refusal :=
  opCompare (.cpxAbs address) State.x (.absolute address) s

/-- CPY IMM, opcode 0xC0 (R233). -/
def execCpyImm (value : Byte) (s : State) : Host.Outcome State Fault Refusal :=
  opCompare (.cpyImm value) State.y (.immediate value) s

/-- CPY ZP, opcode 0xC4 (R233). -/
def execCpyZp (address : Byte) (s : State) : Host.Outcome State Fault Refusal :=
  opCompare (.cpyZp address) State.y (.zeroPage address) s

/-- CPY ABS, opcode 0xCC (R233). -/
def execCpyAbs (address : Word) (s : State) : Host.Outcome State Fault Refusal :=
  opCompare (.cpyAbs address) State.y (.absolute address) s

end Sys2Proof.Machine
end

