-- ==== Sys2Proof/Machine/Jump.lean ====
section
/-! DEFINITION. Jump, call and return (spec/47_jump_subroutine.md R290 to R293). -/

namespace Sys2Proof.Machine

/-- JMP absolute: `PC <- am.ea()`, the Absolute variant's `b2:b1`; the target is not read (R146, R290). -/
def execJmpAbs (address : Word) (s : State) : Host.Outcome State Fault Refusal :=
  onRegisters (.jmpAbs address) (fun t => t.setPC address) s

/-- JMP indirect: the pointer's high byte comes from the pointer's own page (R152, R291). -/
def execJmpInd (pointer : Word) (s : State) : Host.Outcome State Fault Refusal :=
  onStack (.jmpInd pointer) (fun t => do
    let (target, u) ← t.readInPage pointer
    return u.setPC target) s

/-- JSR: push the address of its last byte, `pc0 + 3 - 1`, then jump (R292). -/
def execJsr (address : Word) (s : State) : Host.Outcome State Fault Refusal :=
  onStack (.jsr address) (fun t => do
    let u ← t.push16 (s.pc + 2#16)
    return u.setPC address) s

/-- RTS: `w <- Pop16(); PC <- (w + 1) mod 65536` (R293). -/
def execRts (s : State) : Host.Outcome State Fault Refusal :=
  onStack .rts (fun t => do
    let (w, u) ← t.pop16
    return u.setPC (w + 1#16)) s

end Sys2Proof.Machine
end

