-- ==== Sys2Proof/Machine/LoadStore.lean ====
section
/-! DEFINITION. Load, store and transfer instructions (spec/41_load_store_transfer.md R160 to R171). -/

namespace Sys2Proof.Machine

/-- LDA: `A <- am.load(); SetZN(A)` (R160). -/
def opLda (i : Instr) (am : AddressingMode) (s : State) : Host.Outcome State Fault Refusal :=
  onOperand i am (fun m t => (t.setA m).setZN m) s

/-- LDA IMM, opcode 0xA9 (R160). -/
def execLdaImm (value : Byte) (s : State) : Host.Outcome State Fault Refusal :=
  opLda (.ldaImm value) (.immediate value) s

/-- LDA ZP, opcode 0xA5 (R160). -/
def execLdaZp (address : Byte) (s : State) : Host.Outcome State Fault Refusal :=
  opLda (.ldaZp address) (.zeroPage address) s

/-- LDA ZPX, opcode 0xB5 (R160). -/
def execLdaZpx (address : Byte) (s : State) : Host.Outcome State Fault Refusal :=
  opLda (.ldaZpx address) (.zeroPageX address) s

/-- LDA ABS, opcode 0xAD (R160). -/
def execLdaAbs (address : Word) (s : State) : Host.Outcome State Fault Refusal :=
  opLda (.ldaAbs address) (.absolute address) s

/-- LDA ABX, opcode 0xBD (R160). -/
def execLdaAbx (address : Word) (s : State) : Host.Outcome State Fault Refusal :=
  opLda (.ldaAbx address) (.absoluteX address) s

/-- LDA ABY, opcode 0xB9 (R160). -/
def execLdaAby (address : Word) (s : State) : Host.Outcome State Fault Refusal :=
  opLda (.ldaAby address) (.absoluteY address) s

/-- LDA IZX, opcode 0xA1 (R160). -/
def execLdaIzx (address : Byte) (s : State) : Host.Outcome State Fault Refusal :=
  opLda (.ldaIzx address) (.indexedIndirect address) s

/-- LDA IZY, opcode 0xB1 (R160). -/
def execLdaIzy (address : Byte) (s : State) : Host.Outcome State Fault Refusal :=
  opLda (.ldaIzy address) (.indirectIndexed address) s

/-- LDX: `X <- am.load(); SetZN(X)` (R161). -/
def opLdx (i : Instr) (am : AddressingMode) (s : State) : Host.Outcome State Fault Refusal :=
  onOperand i am (fun m t => (t.setX m).setZN m) s

/-- LDX IMM, opcode 0xA2 (R161). -/
def execLdxImm (value : Byte) (s : State) : Host.Outcome State Fault Refusal :=
  opLdx (.ldxImm value) (.immediate value) s

/-- LDX ZP, opcode 0xA6 (R161). -/
def execLdxZp (address : Byte) (s : State) : Host.Outcome State Fault Refusal :=
  opLdx (.ldxZp address) (.zeroPage address) s

/-- LDX ZPY, opcode 0xB6 (R161). -/
def execLdxZpy (address : Byte) (s : State) : Host.Outcome State Fault Refusal :=
  opLdx (.ldxZpy address) (.zeroPageY address) s

/-- LDX ABS, opcode 0xAE (R161). -/
def execLdxAbs (address : Word) (s : State) : Host.Outcome State Fault Refusal :=
  opLdx (.ldxAbs address) (.absolute address) s

/-- LDX ABY, opcode 0xBE (R161). -/
def execLdxAby (address : Word) (s : State) : Host.Outcome State Fault Refusal :=
  opLdx (.ldxAby address) (.absoluteY address) s

/-- LDY: `Y <- am.load(); SetZN(Y)` (R162). -/
def opLdy (i : Instr) (am : AddressingMode) (s : State) : Host.Outcome State Fault Refusal :=
  onOperand i am (fun m t => (t.setY m).setZN m) s

/-- LDY IMM, opcode 0xA0 (R162). -/
def execLdyImm (value : Byte) (s : State) : Host.Outcome State Fault Refusal :=
  opLdy (.ldyImm value) (.immediate value) s

/-- LDY ZP, opcode 0xA4 (R162). -/
def execLdyZp (address : Byte) (s : State) : Host.Outcome State Fault Refusal :=
  opLdy (.ldyZp address) (.zeroPage address) s

/-- LDY ZPX, opcode 0xB4 (R162). -/
def execLdyZpx (address : Byte) (s : State) : Host.Outcome State Fault Refusal :=
  opLdy (.ldyZpx address) (.zeroPageX address) s

/-- LDY ABS, opcode 0xAC (R162). -/
def execLdyAbs (address : Word) (s : State) : Host.Outcome State Fault Refusal :=
  opLdy (.ldyAbs address) (.absolute address) s

/-- LDY ABX, opcode 0xBC (R162). -/
def execLdyAbx (address : Word) (s : State) : Host.Outcome State Fault Refusal :=
  opLdy (.ldyAbx address) (.absoluteX address) s

/-- STA: `am.save(A)`, no flag (R163). -/
def opSta (i : Instr) (am : AddressingMode) (s : State) : Host.Outcome State Fault Refusal :=
  storeOperand i am (fun t => t.a) s

/-- STA ZP, opcode 0x85 (R163). -/
def execStaZp (address : Byte) (s : State) : Host.Outcome State Fault Refusal :=
  opSta (.staZp address) (.zeroPage address) s

/-- STA ZPX, opcode 0x95 (R163). -/
def execStaZpx (address : Byte) (s : State) : Host.Outcome State Fault Refusal :=
  opSta (.staZpx address) (.zeroPageX address) s

/-- STA ABS, opcode 0x8D (R163). -/
def execStaAbs (address : Word) (s : State) : Host.Outcome State Fault Refusal :=
  opSta (.staAbs address) (.absolute address) s

/-- STA ABX, opcode 0x9D (R163). -/
def execStaAbx (address : Word) (s : State) : Host.Outcome State Fault Refusal :=
  opSta (.staAbx address) (.absoluteX address) s

/-- STA ABY, opcode 0x99 (R163). -/
def execStaAby (address : Word) (s : State) : Host.Outcome State Fault Refusal :=
  opSta (.staAby address) (.absoluteY address) s

/-- STA IZX, opcode 0x81 (R163). -/
def execStaIzx (address : Byte) (s : State) : Host.Outcome State Fault Refusal :=
  opSta (.staIzx address) (.indexedIndirect address) s

/-- STA IZY, opcode 0x91 (R163). -/
def execStaIzy (address : Byte) (s : State) : Host.Outcome State Fault Refusal :=
  opSta (.staIzy address) (.indirectIndexed address) s

/-- STX: `am.save(X)`, no flag (R164). -/
def opStx (i : Instr) (am : AddressingMode) (s : State) : Host.Outcome State Fault Refusal :=
  storeOperand i am (fun t => t.x) s

/-- STX ZP, opcode 0x86 (R164). -/
def execStxZp (address : Byte) (s : State) : Host.Outcome State Fault Refusal :=
  opStx (.stxZp address) (.zeroPage address) s

/-- STX ZPY, opcode 0x96 (R164). -/
def execStxZpy (address : Byte) (s : State) : Host.Outcome State Fault Refusal :=
  opStx (.stxZpy address) (.zeroPageY address) s

/-- STX ABS, opcode 0x8E (R164). -/
def execStxAbs (address : Word) (s : State) : Host.Outcome State Fault Refusal :=
  opStx (.stxAbs address) (.absolute address) s

/-- STY: `am.save(Y)`, no flag (R165). -/
def opSty (i : Instr) (am : AddressingMode) (s : State) : Host.Outcome State Fault Refusal :=
  storeOperand i am (fun t => t.y) s

/-- STY ZP, opcode 0x84 (R165). -/
def execStyZp (address : Byte) (s : State) : Host.Outcome State Fault Refusal :=
  opSty (.styZp address) (.zeroPage address) s

/-- STY ZPX, opcode 0x94 (R165). -/
def execStyZpx (address : Byte) (s : State) : Host.Outcome State Fault Refusal :=
  opSty (.styZpx address) (.zeroPageX address) s

/-- STY ABS, opcode 0x8C (R165). -/
def execStyAbs (address : Word) (s : State) : Host.Outcome State Fault Refusal :=
  opSty (.styAbs address) (.absolute address) s

/-- TAX: `X <- A; SetZN(X)` (R166). -/
def execTax (s : State) : Host.Outcome State Fault Refusal :=
  onRegisters .tax (fun t => (t.setX t.a).setZN t.a) s

/-- TAY: `Y <- A; SetZN(Y)` (R167). -/
def execTay (s : State) : Host.Outcome State Fault Refusal :=
  onRegisters .tay (fun t => (t.setY t.a).setZN t.a) s

/-- TXA: `A <- X; SetZN(A)` (R168). -/
def execTxa (s : State) : Host.Outcome State Fault Refusal :=
  onRegisters .txa (fun t => (t.setA t.x).setZN t.x) s

/-- TYA: `A <- Y; SetZN(A)` (R169). -/
def execTya (s : State) : Host.Outcome State Fault Refusal :=
  onRegisters .tya (fun t => (t.setA t.y).setZN t.y) s

/-- TSX: `X <- SP; SetZN(X)` (R170). -/
def execTsx (s : State) : Host.Outcome State Fault Refusal :=
  onRegisters .tsx (fun t => (t.setX t.sp).setZN t.sp) s

/-- TXS: `SP <- X`, no flag (R171). -/
def execTxs (s : State) : Host.Outcome State Fault Refusal :=
  onRegisters .txs (fun t => t.setSP t.x) s

end Sys2Proof.Machine
end

