-- ==== Sys2Proof/Machine/Shift.lean ====
section
/-! DEFINITION. Shift and rotate instructions (spec/43_shift_rotate.md R220 to R224). -/

namespace Sys2Proof.Machine

/-- The common rule of the family: load, shift by one, save, C and SetZN (R220). -/
def opShift (i : Instr) (k : Flags.Shift) (am : AddressingMode) (s : State) : Host.Outcome State Fault Refusal :=
  modifyOperand i am (fun m t => Flags.shiftResult k m t.c) (fun m t => Flags.shiftStatus k t.p m t.c) s

/-- ASL ACC, opcode 0x0A (R221). -/
def execAslAcc (s : State) : Host.Outcome State Fault Refusal :=
  opShift .aslAcc .asl .accumulator s

/-- ASL ZP, opcode 0x06 (R221). -/
def execAslZp (address : Byte) (s : State) : Host.Outcome State Fault Refusal :=
  opShift (.aslZp address) .asl (.zeroPage address) s

/-- ASL ZPX, opcode 0x16 (R221). -/
def execAslZpx (address : Byte) (s : State) : Host.Outcome State Fault Refusal :=
  opShift (.aslZpx address) .asl (.zeroPageX address) s

/-- ASL ABS, opcode 0x0E (R221). -/
def execAslAbs (address : Word) (s : State) : Host.Outcome State Fault Refusal :=
  opShift (.aslAbs address) .asl (.absolute address) s

/-- ASL ABX, opcode 0x1E (R221). -/
def execAslAbx (address : Word) (s : State) : Host.Outcome State Fault Refusal :=
  opShift (.aslAbx address) .asl (.absoluteX address) s

/-- LSR ACC, opcode 0x4A (R222). -/
def execLsrAcc (s : State) : Host.Outcome State Fault Refusal :=
  opShift .lsrAcc .lsr .accumulator s

/-- LSR ZP, opcode 0x46 (R222). -/
def execLsrZp (address : Byte) (s : State) : Host.Outcome State Fault Refusal :=
  opShift (.lsrZp address) .lsr (.zeroPage address) s

/-- LSR ZPX, opcode 0x56 (R222). -/
def execLsrZpx (address : Byte) (s : State) : Host.Outcome State Fault Refusal :=
  opShift (.lsrZpx address) .lsr (.zeroPageX address) s

/-- LSR ABS, opcode 0x4E (R222). -/
def execLsrAbs (address : Word) (s : State) : Host.Outcome State Fault Refusal :=
  opShift (.lsrAbs address) .lsr (.absolute address) s

/-- LSR ABX, opcode 0x5E (R222). -/
def execLsrAbx (address : Word) (s : State) : Host.Outcome State Fault Refusal :=
  opShift (.lsrAbx address) .lsr (.absoluteX address) s

/-- ROL ACC, opcode 0x2A (R223). -/
def execRolAcc (s : State) : Host.Outcome State Fault Refusal :=
  opShift .rolAcc .rol .accumulator s

/-- ROL ZP, opcode 0x26 (R223). -/
def execRolZp (address : Byte) (s : State) : Host.Outcome State Fault Refusal :=
  opShift (.rolZp address) .rol (.zeroPage address) s

/-- ROL ZPX, opcode 0x36 (R223). -/
def execRolZpx (address : Byte) (s : State) : Host.Outcome State Fault Refusal :=
  opShift (.rolZpx address) .rol (.zeroPageX address) s

/-- ROL ABS, opcode 0x2E (R223). -/
def execRolAbs (address : Word) (s : State) : Host.Outcome State Fault Refusal :=
  opShift (.rolAbs address) .rol (.absolute address) s

/-- ROL ABX, opcode 0x3E (R223). -/
def execRolAbx (address : Word) (s : State) : Host.Outcome State Fault Refusal :=
  opShift (.rolAbx address) .rol (.absoluteX address) s

/-- ROR ACC, opcode 0x6A (R224). -/
def execRorAcc (s : State) : Host.Outcome State Fault Refusal :=
  opShift .rorAcc .ror .accumulator s

/-- ROR ZP, opcode 0x66 (R224). -/
def execRorZp (address : Byte) (s : State) : Host.Outcome State Fault Refusal :=
  opShift (.rorZp address) .ror (.zeroPage address) s

/-- ROR ZPX, opcode 0x76 (R224). -/
def execRorZpx (address : Byte) (s : State) : Host.Outcome State Fault Refusal :=
  opShift (.rorZpx address) .ror (.zeroPageX address) s

/-- ROR ABS, opcode 0x6E (R224). -/
def execRorAbs (address : Word) (s : State) : Host.Outcome State Fault Refusal :=
  opShift (.rorAbs address) .ror (.absolute address) s

/-- ROR ABX, opcode 0x7E (R224). -/
def execRorAbx (address : Word) (s : State) : Host.Outcome State Fault Refusal :=
  opShift (.rorAbx address) .ror (.absoluteX address) s

end Sys2Proof.Machine
end

