-- ==== Sys2Proof/Machine/System.lean ====
section
/-! DEFINITION. System, stack and flag instructions (spec/46_system_stack_flags.md R260 to R273) and the illegal opcodes
(spec/30_encoding.md R106, spec/60_exceptions.md R301). -/

namespace Sys2Proof.Machine

/-- BRK: push `pc0 + 2` and P with B set, set I, load PC from 0xFFFE (R260). The byte after the opcode is not read. -/
def execBrk (s : State) : Host.Outcome State Fault Refusal :=
  onStack .brk (fun t => t.enter (s.pc + 2#16) (Flags.pushedByBreak t.p) irqVector) s

/-- RTI: pop P, then PC, with bits 4 and 5 fixed (R261). -/
def execRti (s : State) : Host.Outcome State Fault Refusal :=
  onStack .rti (fun t => t.leave) s

/-- PHA: `Push(A)` (R262). -/
def execPha (s : State) : Host.Outcome State Fault Refusal :=
  onStack .pha (fun t => t.push t.a) s

/-- PHP: `Push(P OR 0x30)` (R263). -/
def execPhp (s : State) : Host.Outcome State Fault Refusal :=
  onStack .php (fun t => t.push (Flags.pushedByBreak t.p)) s

/-- PLA: `A <- Pop(); SetZN(A)` (R264). -/
def execPla (s : State) : Host.Outcome State Fault Refusal :=
  onStack .pla (fun t => do
    let (v, u) ← t.pop
    return (u.setA v).setZN v) s

/-- PLP: `p <- Pop(); P <- (p AND 0xCF) OR 0x20` (R265). -/
def execPlp (s : State) : Host.Outcome State Fault Refusal :=
  onStack .plp (fun t => do
    let (v, u) ← t.pop
    return u.setP (Flags.pulled v)) s

/-- CLC: `C <- 0` (R266). -/
def execClc (s : State) : Host.Outcome State Fault Refusal :=
  onStack .clc (fun t => t.setBit Flags.cBit false) s

/-- SEC: `C <- 1` (R267). -/
def execSec (s : State) : Host.Outcome State Fault Refusal :=
  onStack .sec (fun t => t.setBit Flags.cBit true) s

/-- CLI: `I <- 0` (R268). -/
def execCli (s : State) : Host.Outcome State Fault Refusal :=
  onStack .cli (fun t => t.setBit Flags.iBit false) s

/-- SEI: `I <- 1` (R269). -/
def execSei (s : State) : Host.Outcome State Fault Refusal :=
  onStack .sei (fun t => t.setBit Flags.iBit true) s

/-- CLD: `D <- 0` (R270). -/
def execCld (s : State) : Host.Outcome State Fault Refusal :=
  onStack .cld (fun t => t.setBit Flags.dBit false) s

/-- SED: `D <- 1` (R271). -/
def execSed (s : State) : Host.Outcome State Fault Refusal :=
  onStack .sed (fun t => t.setBit Flags.dBit true) s

/-- CLV: `V <- 0` (R272). -/
def execClv (s : State) : Host.Outcome State Fault Refusal :=
  onStack .clv (fun t => t.setBit Flags.vBit false) s

/-- NOP: nothing (R273). -/
def execNop (s : State) : Host.Outcome State Fault Refusal :=
  onRegisters .nop (fun t => t) s

/-- An unassigned opcode: IllegalOpcode with the opcode byte and `pc0`, before PC is advanced (R106, R301). -/
def execIllegal (opcode : Byte) (s : State) : Host.Outcome State Fault Refusal :=
  .fault (.illegalOpcode opcode s.pc)

end Sys2Proof.Machine
end

