-- ==== Sys2Proof/Machine/Dispatch.lean ====
section
/-! DEFINITION. One arm per constructor of Instr, each one direct call of that instruction's meaning. -/

namespace Sys2Proof.Machine

def exec (i : Instr) (s : State) : Host.Outcome State Fault Refusal :=
  match i with
  | .ldaImm value => Sys2Proof.Machine.execLdaImm value s
  | .ldaZp address => Sys2Proof.Machine.execLdaZp address s
  | .ldaZpx address => Sys2Proof.Machine.execLdaZpx address s
  | .ldaAbs address => Sys2Proof.Machine.execLdaAbs address s
  | .ldaAbx address => Sys2Proof.Machine.execLdaAbx address s
  | .ldaAby address => Sys2Proof.Machine.execLdaAby address s
  | .ldaIzx address => Sys2Proof.Machine.execLdaIzx address s
  | .ldaIzy address => Sys2Proof.Machine.execLdaIzy address s
  | .ldxImm value => Sys2Proof.Machine.execLdxImm value s
  | .ldxZp address => Sys2Proof.Machine.execLdxZp address s
  | .ldxZpy address => Sys2Proof.Machine.execLdxZpy address s
  | .ldxAbs address => Sys2Proof.Machine.execLdxAbs address s
  | .ldxAby address => Sys2Proof.Machine.execLdxAby address s
  | .ldyImm value => Sys2Proof.Machine.execLdyImm value s
  | .ldyZp address => Sys2Proof.Machine.execLdyZp address s
  | .ldyZpx address => Sys2Proof.Machine.execLdyZpx address s
  | .ldyAbs address => Sys2Proof.Machine.execLdyAbs address s
  | .ldyAbx address => Sys2Proof.Machine.execLdyAbx address s
  | .staZp address => Sys2Proof.Machine.execStaZp address s
  | .staZpx address => Sys2Proof.Machine.execStaZpx address s
  | .staAbs address => Sys2Proof.Machine.execStaAbs address s
  | .staAbx address => Sys2Proof.Machine.execStaAbx address s
  | .staAby address => Sys2Proof.Machine.execStaAby address s
  | .staIzx address => Sys2Proof.Machine.execStaIzx address s
  | .staIzy address => Sys2Proof.Machine.execStaIzy address s
  | .stxZp address => Sys2Proof.Machine.execStxZp address s
  | .stxZpy address => Sys2Proof.Machine.execStxZpy address s
  | .stxAbs address => Sys2Proof.Machine.execStxAbs address s
  | .styZp address => Sys2Proof.Machine.execStyZp address s
  | .styZpx address => Sys2Proof.Machine.execStyZpx address s
  | .styAbs address => Sys2Proof.Machine.execStyAbs address s
  | .tax => Sys2Proof.Machine.execTax s
  | .tay => Sys2Proof.Machine.execTay s
  | .txa => Sys2Proof.Machine.execTxa s
  | .tya => Sys2Proof.Machine.execTya s
  | .tsx => Sys2Proof.Machine.execTsx s
  | .txs => Sys2Proof.Machine.execTxs s
  | .adcImm value => Sys2Proof.Machine.execAdcImm value s
  | .adcZp address => Sys2Proof.Machine.execAdcZp address s
  | .adcZpx address => Sys2Proof.Machine.execAdcZpx address s
  | .adcAbs address => Sys2Proof.Machine.execAdcAbs address s
  | .adcAbx address => Sys2Proof.Machine.execAdcAbx address s
  | .adcAby address => Sys2Proof.Machine.execAdcAby address s
  | .adcIzx address => Sys2Proof.Machine.execAdcIzx address s
  | .adcIzy address => Sys2Proof.Machine.execAdcIzy address s
  | .sbcImm value => Sys2Proof.Machine.execSbcImm value s
  | .sbcZp address => Sys2Proof.Machine.execSbcZp address s
  | .sbcZpx address => Sys2Proof.Machine.execSbcZpx address s
  | .sbcAbs address => Sys2Proof.Machine.execSbcAbs address s
  | .sbcAbx address => Sys2Proof.Machine.execSbcAbx address s
  | .sbcAby address => Sys2Proof.Machine.execSbcAby address s
  | .sbcIzx address => Sys2Proof.Machine.execSbcIzx address s
  | .sbcIzy address => Sys2Proof.Machine.execSbcIzy address s
  | .andImm value => Sys2Proof.Machine.execAndImm value s
  | .andZp address => Sys2Proof.Machine.execAndZp address s
  | .andZpx address => Sys2Proof.Machine.execAndZpx address s
  | .andAbs address => Sys2Proof.Machine.execAndAbs address s
  | .andAbx address => Sys2Proof.Machine.execAndAbx address s
  | .andAby address => Sys2Proof.Machine.execAndAby address s
  | .andIzx address => Sys2Proof.Machine.execAndIzx address s
  | .andIzy address => Sys2Proof.Machine.execAndIzy address s
  | .oraImm value => Sys2Proof.Machine.execOraImm value s
  | .oraZp address => Sys2Proof.Machine.execOraZp address s
  | .oraZpx address => Sys2Proof.Machine.execOraZpx address s
  | .oraAbs address => Sys2Proof.Machine.execOraAbs address s
  | .oraAbx address => Sys2Proof.Machine.execOraAbx address s
  | .oraAby address => Sys2Proof.Machine.execOraAby address s
  | .oraIzx address => Sys2Proof.Machine.execOraIzx address s
  | .oraIzy address => Sys2Proof.Machine.execOraIzy address s
  | .eorImm value => Sys2Proof.Machine.execEorImm value s
  | .eorZp address => Sys2Proof.Machine.execEorZp address s
  | .eorZpx address => Sys2Proof.Machine.execEorZpx address s
  | .eorAbs address => Sys2Proof.Machine.execEorAbs address s
  | .eorAbx address => Sys2Proof.Machine.execEorAbx address s
  | .eorAby address => Sys2Proof.Machine.execEorAby address s
  | .eorIzx address => Sys2Proof.Machine.execEorIzx address s
  | .eorIzy address => Sys2Proof.Machine.execEorIzy address s
  | .bitZp address => Sys2Proof.Machine.execBitZp address s
  | .bitAbs address => Sys2Proof.Machine.execBitAbs address s
  | .incZp address => Sys2Proof.Machine.execIncZp address s
  | .incZpx address => Sys2Proof.Machine.execIncZpx address s
  | .incAbs address => Sys2Proof.Machine.execIncAbs address s
  | .incAbx address => Sys2Proof.Machine.execIncAbx address s
  | .decZp address => Sys2Proof.Machine.execDecZp address s
  | .decZpx address => Sys2Proof.Machine.execDecZpx address s
  | .decAbs address => Sys2Proof.Machine.execDecAbs address s
  | .decAbx address => Sys2Proof.Machine.execDecAbx address s
  | .inx => Sys2Proof.Machine.execInx s
  | .iny => Sys2Proof.Machine.execIny s
  | .dex => Sys2Proof.Machine.execDex s
  | .dey => Sys2Proof.Machine.execDey s
  | .aslAcc => Sys2Proof.Machine.execAslAcc s
  | .aslZp address => Sys2Proof.Machine.execAslZp address s
  | .aslZpx address => Sys2Proof.Machine.execAslZpx address s
  | .aslAbs address => Sys2Proof.Machine.execAslAbs address s
  | .aslAbx address => Sys2Proof.Machine.execAslAbx address s
  | .lsrAcc => Sys2Proof.Machine.execLsrAcc s
  | .lsrZp address => Sys2Proof.Machine.execLsrZp address s
  | .lsrZpx address => Sys2Proof.Machine.execLsrZpx address s
  | .lsrAbs address => Sys2Proof.Machine.execLsrAbs address s
  | .lsrAbx address => Sys2Proof.Machine.execLsrAbx address s
  | .rolAcc => Sys2Proof.Machine.execRolAcc s
  | .rolZp address => Sys2Proof.Machine.execRolZp address s
  | .rolZpx address => Sys2Proof.Machine.execRolZpx address s
  | .rolAbs address => Sys2Proof.Machine.execRolAbs address s
  | .rolAbx address => Sys2Proof.Machine.execRolAbx address s
  | .rorAcc => Sys2Proof.Machine.execRorAcc s
  | .rorZp address => Sys2Proof.Machine.execRorZp address s
  | .rorZpx address => Sys2Proof.Machine.execRorZpx address s
  | .rorAbs address => Sys2Proof.Machine.execRorAbs address s
  | .rorAbx address => Sys2Proof.Machine.execRorAbx address s
  | .cmpImm value => Sys2Proof.Machine.execCmpImm value s
  | .cmpZp address => Sys2Proof.Machine.execCmpZp address s
  | .cmpZpx address => Sys2Proof.Machine.execCmpZpx address s
  | .cmpAbs address => Sys2Proof.Machine.execCmpAbs address s
  | .cmpAbx address => Sys2Proof.Machine.execCmpAbx address s
  | .cmpAby address => Sys2Proof.Machine.execCmpAby address s
  | .cmpIzx address => Sys2Proof.Machine.execCmpIzx address s
  | .cmpIzy address => Sys2Proof.Machine.execCmpIzy address s
  | .cpxImm value => Sys2Proof.Machine.execCpxImm value s
  | .cpxZp address => Sys2Proof.Machine.execCpxZp address s
  | .cpxAbs address => Sys2Proof.Machine.execCpxAbs address s
  | .cpyImm value => Sys2Proof.Machine.execCpyImm value s
  | .cpyZp address => Sys2Proof.Machine.execCpyZp address s
  | .cpyAbs address => Sys2Proof.Machine.execCpyAbs address s
  | .bcc offset => Sys2Proof.Machine.execBcc offset s
  | .bcs offset => Sys2Proof.Machine.execBcs offset s
  | .beq offset => Sys2Proof.Machine.execBeq offset s
  | .bne offset => Sys2Proof.Machine.execBne offset s
  | .bmi offset => Sys2Proof.Machine.execBmi offset s
  | .bpl offset => Sys2Proof.Machine.execBpl offset s
  | .bvc offset => Sys2Proof.Machine.execBvc offset s
  | .bvs offset => Sys2Proof.Machine.execBvs offset s
  | .brk => Sys2Proof.Machine.execBrk s
  | .rti => Sys2Proof.Machine.execRti s
  | .pha => Sys2Proof.Machine.execPha s
  | .php => Sys2Proof.Machine.execPhp s
  | .pla => Sys2Proof.Machine.execPla s
  | .plp => Sys2Proof.Machine.execPlp s
  | .clc => Sys2Proof.Machine.execClc s
  | .sec => Sys2Proof.Machine.execSec s
  | .cli => Sys2Proof.Machine.execCli s
  | .sei => Sys2Proof.Machine.execSei s
  | .cld => Sys2Proof.Machine.execCld s
  | .sed => Sys2Proof.Machine.execSed s
  | .clv => Sys2Proof.Machine.execClv s
  | .nop => Sys2Proof.Machine.execNop s
  | .jmpAbs address => Sys2Proof.Machine.execJmpAbs address s
  | .jmpInd pointer => Sys2Proof.Machine.execJmpInd pointer s
  | .jsr address => Sys2Proof.Machine.execJsr address s
  | .rts => Sys2Proof.Machine.execRts s
  | .illegal opcode => Sys2Proof.Machine.execIllegal opcode s

end Sys2Proof.Machine
end

