-- ==== Sys2Proof/Machine/Stepping.lean ====
section
/-! DEFINITION. The three kinds of step and the choice between them (spec/40_engine_addressing.md R130 to R135), and
placing an instruction where the next step fetches. -/

namespace Sys2Proof.Machine

/-- An instruction step: fetch, decode, execute, retire (R133). -/
def instructionStep (s : State) : Host.Outcome State Fault Refusal :=
  match fetch s with
  | .ok (i, t) => exec i t
  | .error f => .fault f

/-- An interrupt step: the entry sequence; no instruction is fetched (R132). -/
def interruptStep (k : InterruptKind) (s : State) : Host.Outcome State Fault Refusal :=
  finish (s.interruptEntry k)

/-- One call of the engine. A faulted machine has no step and answers its recorded fault; otherwise a stall step, else an
interrupt step if the poll selects one, else an instruction step (R130, R313). -/
def takeStep (s : State) : Host.Outcome State Fault Refusal :=
  match s.fault with
  | some f => .fault f
  | none =>
    if s.stall != 0#8 then .next s.stallStep
    else
      match s.poll with
      | some k => interruptStep k s
      | none => instructionStep s

/-- A byte put into the memory cell of an address, whatever the port would do with a store there; nothing where the
address has no cell. -/
def State.place (s : State) (a : Word) (v : Byte) : State :=
  match Memory.placeOf s.map a with
  | .cell c => s.setMem (Memory.write s.mem c v)
  | .external | .absent => s

/-- Bytes put at consecutive addresses, wrapping at 65536. -/
def State.placeAll (s : State) (a : Word) (bytes : List Byte) : State :=
  match bytes with
  | [] => s
  | b :: rest => (s.place a b).placeAll (a + 1#16) rest

/-- A state whose next step is an instruction step: no recorded fault, no stall, no request the poll would select. -/
def State.readyToFetch (s : State) : State :=
  let t := (s.setFault none).setStall 0#8
  if s.poll = none then t else t.setInterrupt .none

/-- The state with instruction bytes at PC, ready to fetch them (notes/assumptions/11). -/
def State.withInstruction (s : State) (bytes : List Byte) : State :=
  (s.placeAll s.pc bytes).readyToFetch

end Sys2Proof.Machine
end

