-- ==== Sys2Proof/Machine/Step.lean ====
section
/-! DEFINITION. `Step`, the only operation that advances the machine (spec/40_engine_addressing.md R130), and the state
with an instruction of the opcode table placed where it is fetched. -/

namespace Sys2Proof.Machine

/-- One step (R130). -/
def step (s : State) : Host.Outcome State Fault Refusal := takeStep s

/-- The state with the instruction of bits `w` placed at PC, so that the next step fetches and runs it. -/
def State.withFetchWord (s : State) (nbits w : Nat) : State := s.withInstruction (tableWordBytes nbits w)

end Sys2Proof.Machine
end

