-- ==== Sys2Proof/Machine/HostOps.lean ====
section
/-! DEFINITION. What the host may do between steps (spec/00_scope.md R8, spec/60_exceptions.md R305, R307, R308,
spec/70_reset_and_hazards.md R340, R342, R352). -/

namespace Sys2Proof.Machine

/-- `Reset`: every register at its reset value, the fault status cleared, no memory access and the parameters as they
are (R340, R343). -/
def State.hostReset (s : State) : State :=
  { State.reset with mem := s.mem, external := s.external, map := s.map, timing := s.timing }

/-- `SetPC(v)` (R342). -/
def State.hostSetPC (s : State) (v : Word) : State := s.setPC v

/-- `SetStall(n)` (R308). -/
def State.hostSetStall (s : State) (n : Byte) : State := s.setStall n

/-- `RaiseNMI`: replaces whatever was pending (R307). -/
def State.raiseNMI (s : State) : State := s.setInterrupt .nmi

/-- `RaiseIRQ`: only when nothing is pending; it does not look at I (R307). -/
def State.raiseIRQ (s : State) : State :=
  match s.interrupt with
  | .none => s.setInterrupt .irq
  | .nmi | .irq => s

/-- `Step` as the host sees the machine afterwards: a step that raises a fatal fault does not complete and leaves the
state as it was, tagged with the fault (R305, D6; notes/assumptions/7, notes/assumptions/8). -/
def State.hostStep (s : State) : State :=
  match step s with
  | .next t => t
  | .fault f => s.setFault (some f)
  | .refused _ => s

/-- The 8-bit value of INTERRUPT (R39). -/
def interruptCode (k : Interrupt) : Byte :=
  match k with
  | .none => 0#8
  | .nmi => 1#8
  | .irq => 2#8

/-- The conventional program entry a host finds before SetPC: the word at the reset vector (R342). The host looks at the
bytes, the core makes no access. -/
def State.conventionalEntry (s : State) : Except Fault Word := do
  let lo ← s.load resetVector
  let hi ← s.load (resetVector + 1#16)
  return Bits.join hi lo

end Sys2Proof.Machine
end

