-- ==== Sys2Proof/Safety.lean ====
section
/-! DEFINITION. What counts as a safe run (spec/60_exceptions.md R305, spec/70_reset_and_hazards.md R353), and the
invariant of every reachable state (spec/10_state.md R44). -/

namespace Sys2Proof.Safety

open Sys2Proof.Machine

/-- The parameter END_OF_RUN: what a claim treats as the end of a run (R6, R353). -/
abbrev EndOfRun := State → Prop

/-- No fatal fault is recorded, and the next `n` steps raise none. -/
def runsFor (n : Nat) (s : State) : Prop := s.fault = none ∧ ∃ t, Host.Core.run Sys2Proof.core n s = .next t

/-- The run reaches the end with no fatal fault raised on the way and none recorded; a faulted state is never a good end
(R305, R353). -/
def endsWell (done : EndOfRun) (s : State) : Prop :=
  ∃ n t, Host.Core.run Sys2Proof.core n s = .next t ∧ t.fault = none ∧ done t

/-- Bit 5 of P is 1 and bit 4 is 0 (R31, R32, R44). INTERRUPT 0, 1 or 2 and the stack address in page 1 hold of every
State by their types. -/
def statusFixed (p : Byte) : Prop := Flags.get p Flags.uBit = true ∧ Flags.get p Flags.bBit = false

/-- The invariant that every step keeps: the fixed bits of P, and memory in its canonical form. -/
def Inv (s : State) : Prop := statusFixed s.p ∧ Memory.wf s.mem

end Sys2Proof.Safety
end

