-- ==== Sys2Proof/Certificates/Slice0/Obligations.lean ====
section
/-! DEFINITION. The statements for the provers, from the spec's numbered rules. An instruction is named by its mnemonic
and operand (`mnemonicOf`, `operandOf`), so a statement about a mnemonic covers every constructor of Instr with it. -/

namespace Sys2Proof.Claims

open Sys2Proof.Machine

/-- The next step is an instruction step (R133): no recorded fault, no stall, and the poll selects nothing. -/
def ready (s : State) : Prop := s.fault = none ∧ s.stall = 0#8 ∧ s.poll = none

/-- The bits of P that no arithmetic, shift, compare or load writes: I, D, B and bit 5. -/
def sameControlBits (s t : State) : Prop :=
  t.i = s.i ∧ t.d = s.d ∧ Flags.get t.p Flags.bBit = Flags.get s.p Flags.bBit ∧
    Flags.get t.p Flags.uBit = Flags.get s.p Flags.uBit

/-- Z and N as SetZN of a u8 with value `r` leaves them (R36). -/
def znOf (t : State) (r : Nat) : Prop := (t.z = true ↔ r = 0) ∧ (t.n = true ↔ 128 ≤ r)

/-- The result of a shift of a u8 with value `v`, and the bit that leaves (R221 to R224). -/
def shiftOutcome (k : Mnemonic) (v : Nat) (carry : Bool) : Nat × Bool :=
  match k with
  | .asl => (v * 2 % 256, decide (128 ≤ v))
  | .lsr => (v / 2, decide (v % 2 = 1))
  | .rol => (v * 2 % 256 + (if carry then 1 else 0), decide (128 ≤ v))
  | _ => (v / 2 + (if carry then 128 else 0), decide (v % 2 = 1))

/-- The address of the `k`-th byte pushed from a given SP, `0x0100 + (SP - k) mod 256` (R136). -/
def slot (s : State) (k : Nat) : Word := stackAddress (s.sp - BitVec.ofNat 8 k)

/-- The accesses of BRK and of an interrupt entry, in order: the address pushed high byte first, the status pushed, and
the two bytes of the vector read (R138, R260, R310). The answer is the two bytes and the state after these accesses. -/
def entryAccesses (s : State) (ret : Word) (status : Byte) (vector : Word) : Except Fault (Byte × Byte × State) := do
  let t ← s.store (slot s 0) (Bits.hiByte ret)
  let u ← t.store (slot s 1) (Bits.loByte ret)
  let v ← u.store (slot s 2) status
  let (lo, w) ← v.read vector
  let (hi, x) ← w.read (vector + 1#16)
  return (lo, hi, x)

/-- The three pops of RTI, in order: the status, then the address, low byte first (R261). -/
def returnAccesses (s : State) : Except Fault (Byte × Byte × Byte × State) := do
  let (p, t) ← s.read (stackAddress (s.sp + 1#8))
  let (lo, u) ← t.read (stackAddress (s.sp + 2#8))
  let (hi, v) ← u.read (stackAddress (s.sp + 3#8))
  return (p, lo, hi, v)

/-- The bytes of a list read at consecutive addresses, wrapping at 65536, and the state after these reads. -/
def bytesRead (bytes : List Byte) (a : Word) (s t : State) : Prop :=
  match bytes with
  | [] => t = s
  | b :: rest => ∃ u, s.read a = .ok (b, u) ∧ bytesRead rest (a + 1#16) u t

/-- Every stack address is a RAM cell of its own, as on the documented map and on the flat one (R68). -/
def stackRam (s : State) : Prop :=
  ∀ sp : Byte, Memory.storeEffect s.map (stackAddress sp) = .writes (stackAddress sp).toNat

/-- What the port does at an address that a list of regions decides (R61, R68): the first region that holds it answers. -/
def regionPort (regions : List Config.Region) (s : State) (a : Word) (v : Byte) : Prop :=
  match regions.find? (fun r => decide (r.first ≤ a.toNat ∧ a.toNat ≤ r.last)) with
  | none => s.read a = .error (.unimplementedMemory a .read) ∧ s.store a v = .error (.unimplementedMemory a .write)
  | some r =>
    match r.kind with
    | .absent => s.read a = .error (.unimplementedMemory a .read) ∧ s.store a v = .error (.unimplementedMemory a .write)
    | .external =>
      s.read a =
        (match Config.externalLoad s.external a with
        | some b => .ok (b, { s with external := .read a :: s.external })
        | none => .error (.unimplementedMemory a .read)) ∧
      s.store a v =
        (if Config.externalStore s.external a v then .ok { s with external := .write a v :: s.external }
        else .error (.unimplementedMemory a .write))
    | .memory cell size stores =>
      s.read a = .ok (Memory.read s.mem ((cell + (a.toNat - r.first) % size) % 65536), s) ∧
      s.store a v =
        (match stores with
        | .keeps => .ok { s with mem := Memory.write s.mem ((cell + (a.toNat - r.first) % size) % 65536) v }
        | .ignores => .ok s
        | .refuses => .error (.unimplementedMemory a .write))

/-- UnimplementedMemory at an address where the port can refuse an access of its kind (R69, R304). -/
def portFault (m : Config.MemMap) (f : Fault) : Prop :=
  ∃ a, (f = .unimplementedMemory a .read ∧ (Memory.placeOf m a = .absent ∨ Memory.placeOf m a = .external)) ∨
    (f = .unimplementedMemory a .write ∧ (Memory.storeEffect m a = .refused ∨ Memory.placeOf m a = .external))

/-- Every charge of a TIMING is at least one cycle for each instruction and for an interrupt entry. -/
def chargesAll (timing : Config.Timing) : Prop := 0 < timing.entry ∧ ∀ c ∈ timing.costs, 0 < c.2.base

/-- Base cycles and page penalty of R110, by mnemonic and format. -/
def r110 (k : Mnemonic) (f : Format) : Nat × Nat :=
  match k, f with
  | .brk, _ => (7, 0)
  | .rti, _ | .rts, _ | .jsr, _ => (6, 0)
  | .pha, _ | .php, _ => (3, 0)
  | .pla, _ | .plp, _ => (4, 0)
  | .jmp, .abs => (3, 0)
  | .jmp, _ => (5, 0)
  | .inc, .zp | .dec, .zp | .asl, .zp | .lsr, .zp | .rol, .zp | .ror, .zp => (5, 0)
  | .inc, .zpx | .dec, .zpx | .asl, .zpx | .lsr, .zpx | .rol, .zpx | .ror, .zpx => (6, 0)
  | .inc, .abs | .dec, .abs | .asl, .abs | .lsr, .abs | .rol, .abs | .ror, .abs => (6, 0)
  | .inc, .abx | .dec, .abx | .asl, .abx | .lsr, .abx | .rol, .abx | .ror, .abx => (7, 0)
  | .sta, .abx | .sta, .aby => (5, 0)
  | .sta, .izy => (6, 0)
  | _, .imp | _, .acc | _, .imm => (2, 0)
  | _, .rel => (2, 1)
  | _, .zp => (3, 0)
  | _, .zpx | _, .zpy | _, .abs => (4, 0)
  | _, .abx | _, .aby => (4, 1)
  | _, .izx => (6, 0)
  | _, .izy => (5, 1)
  | _, .ind | _, .noFormat => (0, 0)

/-- The mnemonics whose instructions load their operand and store nothing. -/
def readers : List Mnemonic := [.lda, .ldx, .ldy, .adc, .sbc, .and, .ora, .eor, .bit, .cmp, .cpx, .cpy]

/-- The mnemonics whose instructions write their operand. -/
def writers : List Mnemonic := [.sta, .stx, .sty, .inc, .dec, .asl, .lsr, .rol, .ror]

/-- The mnemonics that push. -/
def pushers : List Mnemonic := [.pha, .php, .jsr, .brk]

/-- How many bytes a pushing instruction pushes. -/
def pushCount (k : Mnemonic) : Nat :=
  match k with
  | .jsr => 2
  | .brk => 3
  | _ => 1

/-- One instruction executed `n` times. -/
def repeated (i : Instr) : Nat → State → Host.Outcome State Fault Refusal
  | 0, s => .next s
  | n + 1, s =>
    match exec i s with
    | .next t => repeated i n t
    | o => o

end Sys2Proof.Claims

open Sys2Proof Sys2Proof.Machine Sys2Proof.Claims Sys2Proof.Safety

/-- Every register after reset. R42. -/
def Obligations.ResetState : Prop :=
  State.reset.pc = 0x0000#16 ∧ State.reset.sp = 0xFF#8 ∧ State.reset.a = 0x00#8 ∧ State.reset.x = 0x00#8 ∧
    State.reset.y = 0x00#8 ∧ State.reset.p = 0x20#8 ∧ State.reset.cycles = 0 ∧ State.reset.interrupt = .none ∧
    State.reset.stall = 0#8 ∧ State.reset.fault = none

/-- The invariant holds at reset: bits 5 and 4 of P as the rules say, and the model's own canonical form of memory. The
clause on the canonical form of memory is the model's own: a representation whose reset memory lists nothing (log
entry 1, DESIGN CHOICE), and no rule speaks of it. 10_state.md R31, R32, R42, R44. -/
def Obligations.InvariantAtReset : Prop :=
  Inv State.reset

/-- Every step keeps the fixed bits of P and the canonical form of memory. The fixed bits of P are decision D7 of the
spec; the clause on the canonical form of memory is the model's own (log entry 1, DESIGN CHOICE). 10_state.md R31,
R32, R44, 92_eei_decisions.md D7. -/
def Obligations.StepKeepsInvariant : Prop :=
  ∀ s t : State, Inv s → step s = .next t → Inv t

/-- Host operations keep the invariant. The clause of Inv on the canonical form of memory is the model's own (log entry 1,
DESIGN CHOICE). That Inv holds after a step that faults rests on the model keeping the state before it (log entry 8,
DESIGN CHOICE): R305 leaves that state unspecified and only suggests this. 10_state.md R44, 60_exceptions.md R305,
R307, R308, 70_reset_and_hazards.md R340, R342, 92_eei_decisions.md D6. -/
def Obligations.HostOperationsKeepInvariant : Prop :=
  ∀ (s : State) (w : Word) (n : Byte), Inv s →
    Inv s.hostReset ∧ Inv (s.hostSetPC w) ∧ Inv (s.hostSetStall n) ∧ Inv s.raiseNMI ∧ Inv s.raiseIRQ ∧ Inv s.hostStep

/-- SetZN sets Z iff the value is 0, N iff bit 7, and no other bit. R36. -/
def Obligations.SetZNWritesTwoBits : Prop :=
  ∀ (s : State) (v : Byte),
    ((s.setZN v).z = true ↔ v = 0#8) ∧ ((s.setZN v).n = true ↔ v &&& 0x80#8 ≠ 0#8) ∧
    (∀ k, k ≠ Flags.zBit → k ≠ Flags.nBit → Flags.get (s.setZN v).p k = Flags.get s.p k) ∧
    ¬ ((s.setZN v).z = true ∧ (s.setZN v).n = true) ∧ s.setZN v = { s with p := (s.setZN v).p }

/-- set writes exactly one bit of P; an index above 7 is InvalidStatusBit. 10_state.md R35, 60_exceptions.md R302. -/
def Obligations.NamedBitAccess : Prop :=
  ∀ (s : State) (k : Nat) (v : Bool),
    (k ≤ 7 → s.getBit k = .ok (Flags.get s.p k) ∧
      ∃ t, s.setBit k v = .ok t ∧ Flags.get t.p k = v ∧ (∀ j, j ≠ k → Flags.get t.p j = Flags.get s.p j) ∧
        t = { s with p := t.p }) ∧
    (7 < k → s.setBit k v = .error (.invalidStatusBit k) ∧ s.getBit k = .error (.invalidStatusBit k))

/-- Decoding the encoding of a well-formed instruction gives it back. 30_encoding.md R100, R101, R102, R104,
92_eei_decisions.md D1, D2, D3. -/
def Obligations.DecodeOfEncode : Prop :=
  ∀ (i : Instr) (rest : List Byte), i.wellFormed = true → decode (encode i ++ rest) = .ok (i, rest)

/-- Every decoded instruction is well-formed and re-encodes to its bytes. 30_encoding.md R100, R106, R107. -/
def Obligations.EncodeOfDecode : Prop :=
  ∀ (bytes rest : List Byte) (i : Instr), decode bytes = .ok (i, rest) →
    i.wellFormed = true ∧ bytes = encode i ++ rest ∧ (encode i).length = lengthOf i

/-- The decoder gives the mnemonic, operand and cycles of the instruction table. The numbers of R110 are the default of
the open parameter TIMING (D21, log entry 4). 30_encoding.md R103, R104, R106, R110, 40_engine_addressing.md R134,
R155, 92_eei_decisions.md D21. -/
def Obligations.DecodeFollowsTable : Prop :=
  ∀ op b1 b2 : Byte,
    mnemonicOf (decodeOpcode op b1 b2) = (tableEntry op).mnemonic ∧
    operandOf (decodeOpcode op b1 b2) = selectOperand (tableEntry op).format b1 b2 ∧
    opcodeOf (decodeOpcode op b1 b2) = op ∧
    (decodeOpcode op b1 b2 = .illegal op ↔ op ∈ illegalOpcodes) ∧
    (∀ timing : Config.Timing, op ∉ illegalOpcodes → timing.costs.lookup op = none →
      ((costOf timing (decodeOpcode op b1 b2)).base, (costOf timing (decodeOpcode op b1 b2)).penalty) =
        r110 (tableEntry op).mnemonic (tableEntry op).format) ∧
    (∀ (timing : Config.Timing) (c : Config.Cost), timing.costs.lookup op = some c →
      costOf timing (decodeOpcode op b1 b2) = c) ∧
    (∀ (timing : Config.Timing) (i : Instr) (crossed : Bool) (extra : Nat), cycleCost timing i crossed extra =
      (costOf timing i).base + (if crossed then (costOf timing i).penalty else 0) + extra) ∧
    Config.standardTiming.costs = [] ∧ Config.standardTiming.branchTaken = 1 ∧ Config.standardTiming.branchCrossed = 1 ∧
    Config.standardTiming.entry = 7

/-- A few instructions written out from their encodings decode as the spec says. 30_encoding.md R101, R102, R104,
95_test_vectors.md section 2. -/
def Obligations.DecodeSampleWords : Prop :=
  decode [0xA9#8, 0x80#8] = .ok (.ldaImm 0x80#8, []) ∧
    decode [0xBD#8, 0xFF#8, 0x02#8] = .ok (.ldaAbx 0x02FF#16, []) ∧
    decode [0x91#8, 0x32#8] = .ok (.staIzy 0x32#8, []) ∧
    decode [0x6E#8, 0x00#8, 0x03#8] = .ok (.rorAbs 0x0300#16, []) ∧
    decode [0xD0#8, 0xF8#8] = .ok (.bne 0xF8#8, []) ∧
    decode [0x6C#8, 0xFF#8, 0x30#8] = .ok (.jmpInd 0x30FF#16, []) ∧
    decode [0x20#8, 0x0D#8, 0x06#8] = .ok (.jsr 0x060D#16, []) ∧
    decode [0x00#8] = .ok (.brk, []) ∧ decode [0x02#8] = .ok (.illegal 0x02#8, [])

/-- A step runs the instruction that the bytes at PC decode to. 40_engine_addressing.md R133. -/
def Obligations.StepRunsDecodedInstruction : Prop :=
  ∀ (s t : State) (bytes : List Byte) (i : Instr), ready s → decode bytes = .ok (i, []) → bytesRead bytes s.pc s t →
    step s = exec i t ∧ t = { s with external := t.external } ∧
    ((∀ k, k < bytes.length → Memory.placeOf s.map (s.pc + BitVec.ofNat 16 k) ≠ .external) → t = s)

/-- A refused opcode fetch or operand-byte fetch ends the step with UnimplementedMemory at that address, in access order.
40_engine_addressing.md R133, R139, 60_exceptions.md R304, R313, 20_memory.md R69. -/
def Obligations.FetchFaults : Prop :=
  ∀ s : State, ready s →
    (∀ f, s.load s.pc = .error f → f = .unimplementedMemory s.pc .read ∧ step s = .fault f) ∧
    ∀ (op : Byte) (t : State), s.read s.pc = .ok (op, t) →
      (∀ f, 1 < (tableEntry op).length → t.load (s.pc + 1#16) = .error f →
        f = .unimplementedMemory (s.pc + 1#16) .read ∧ step s = .fault f) ∧
      ∀ (b : Byte) (u : State), (tableEntry op).length = 3 → t.read (s.pc + 1#16) = .ok (b, u) →
        ∀ f, u.load (s.pc + 2#16) = .error f → f = .unimplementedMemory (s.pc + 2#16) .read ∧ step s = .fault f

/-- The step after withFetchWord, the model's own placement, runs the placed instruction. withFetchWord is the model's own
(log entry 11, DESIGN CHOICE): no rule speaks of placing an instruction, of filling the memory cells behind PC
whatever the port does with a store, or of clearing what would come before an instruction step. R133 says only that an
instruction step runs what it fetches. 40_engine_addressing.md R133. -/
def Obligations.PlacedInstructionIsRun : Prop :=
  ∀ (s : State) (nbits w : Nat) (i : Instr) (c0 c1 c2 : Nat), Memory.placeOf s.map s.pc = .cell c0 →
    Memory.placeOf s.map (s.pc + 1#16) = .cell c1 → Memory.placeOf s.map (s.pc + 2#16) = .cell c2 →
    c0 ≠ c1 → c0 ≠ c2 → c1 ≠ c2 → decodeTableWord nbits w = some i →
    step (s.withFetchWord nbits w) = exec i (s.withFetchWord nbits w)

/-- A stall step decrements STALL, adds one cycle and changes nothing else. 40_engine_addressing.md R131,
92_eei_decisions.md D14. -/
def Obligations.StallStepEffect : Prop :=
  ∀ s : State, s.fault = none → s.stall ≠ 0#8 →
    step s = .next { s with stall := s.stall - 1#8, cycles := s.cycles + 1 }

/-- SetStall(n) gives exactly n stall steps. 40_engine_addressing.md R131, 60_exceptions.md R308, 92_eei_decisions.md D14. -/
def Obligations.StallRunsOut : Prop :=
  ∀ (s : State) (n : Byte), s.fault = none →
    Host.Core.run Sys2Proof.core n.toNat (s.hostSetStall n) = .next { s with stall := 0#8, cycles := s.cycles + n.toNat }

/-- NMI is always selected, IRQ only when I = 0. 60_exceptions.md R309, 92_eei_decisions.md D11, D13. -/
def Obligations.PollSelects : Prop :=
  ∀ s : State, (s.poll = some .nmi ↔ s.interrupt = .nmi) ∧ (s.poll = some .irq ↔ s.interrupt = .irq ∧ s.i = false) ∧
    (s.poll = none ↔ s.interrupt = .none ∨ (s.interrupt = .irq ∧ s.i = true))

/-- What an interrupt step saves, changes and where it goes, and its faults. 60_exceptions.md R304, R310,
40_engine_addressing.md R132, 92_eei_decisions.md D12. -/
def Obligations.InterruptEntryEffect : Prop :=
  ∀ (s : State) (k : InterruptKind) (vec : Word), s.fault = none → s.stall = 0#8 → s.poll = some k →
    (k, vec) ∈ [(InterruptKind.nmi, 0xFFFA#16), (InterruptKind.irq, 0xFFFE#16)] →
    (∀ lo hi x, entryAccesses s s.pc ((s.p &&& 0xEF#8) ||| 0x20#8) vec = .ok (lo, hi, x) →
      step s = .next { s with
        interrupt := .none
        mem := x.mem
        external := x.external
        sp := s.sp - 3#8
        p := Flags.put s.p Flags.iBit true
        pc := Bits.join hi lo
        cycles := s.cycles + s.timing.entry }) ∧
    (∀ f, entryAccesses s s.pc ((s.p &&& 0xEF#8) ||| 0x20#8) vec = .error f → step s = .fault f)

/-- No instruction touches INTERRUPT, STALL, the fault status or the parameters MEM and TIMING. The map and the timing
numbers are the model's own fields for the parameters MEM and TIMING (log entries 2 and 4, DESIGN CHOICE); none of the
cited rules speaks of them. 40_engine_addressing.md R133, 10_state.md R39, R40, R41, 60_exceptions.md R309. -/
def Obligations.InstructionKeepsRequests : Prop :=
  ∀ (i : Instr) (s t : State), exec i s = .next t →
    t.interrupt = s.interrupt ∧ t.stall = s.stall ∧ t.fault = s.fault ∧ t.map = s.map ∧ t.timing = s.timing

/-- CYCLES never decreases, and every step adds at least one cycle under a TIMING that charges every step, as the default
does. It rests on CYCLES as an unbounded number (log entry 5, DESIGN CHOICE, D22; false of a 64-bit counter that
wraps), and its strict part on the numbers that TIMING charges (log entry 4, D21). 10_state.md R38, 60_exceptions.md
R317, 40_engine_addressing.md R131, R132, R134, 30_encoding.md R110, 92_eei_decisions.md D21, D22. -/
def Obligations.CyclesAlwaysGrow : Prop :=
  (∀ s t : State, step s = .next t → s.cycles ≤ t.cycles ∧ (chargesAll s.timing → s.cycles < t.cycles)) ∧
    chargesAll Config.standardTiming

/-- CYCLES and TIMING never influence any other state. 40_engine_addressing.md R134, 70_reset_and_hazards.md R351,
10_state.md R38, 00_scope.md R9. -/
def Obligations.CyclesAreNeverObserved : Prop :=
  ∀ (s : State) (n : Nat) (timing : Config.Timing),
    (∀ t, step s = .next t → step (s.addCycles n) = .next (t.addCycles n) ∧
      ∃ c, step { s with timing := timing } = .next { t with timing := timing, cycles := c }) ∧
    (∀ f, step s = .fault f → step (s.addCycles n) = .fault f ∧ step { s with timing := timing } = .fault f)

/-- D changes nothing but itself, except where P is pushed or D is written. 10_state.md R30, 42_arithmetic_logic.md R190,
R191. -/
def Obligations.DecimalFlagIsInert : Prop :=
  ∀ (i : Instr) (s : State) (b : Bool), mnemonicOf i ∉ [.php, .brk, .plp, .rti, .cld, .sed] →
    (∀ t, exec i s = .next t →
      exec i (s.setP (Flags.put s.p Flags.dBit b)) = .next (t.setP (Flags.put t.p Flags.dBit b))) ∧
    (∀ f, exec i s = .fault f → exec i (s.setP (Flags.put s.p Flags.dBit b)) = .fault f)

/-- An unassigned opcode is the fatal fault IllegalOpcode with its byte and address. 30_encoding.md R106, 60_exceptions.md
R301, R313. -/
def Obligations.IllegalOpcodeFaults : Prop :=
  (∀ (s : State) (op : Byte), exec (.illegal op) s = .fault (.illegalOpcode op s.pc)) ∧
    ∀ (s : State) (op : Byte), ready s → s.load s.pc = .ok op → op ∈ illegalOpcodes →
      step s = .fault (.illegalOpcode op s.pc)

/-- An official instruction or an interrupt entry faults only where the Memory port refuses an access. 60_exceptions.md
R302, R303, R304, R305, R310, 20_memory.md R69. -/
def Obligations.OfficialFaultsComeFromThePort : Prop :=
  ∀ s : State,
    (∀ i : Instr, mnemonicOf i ≠ .illegal → (∀ r, exec i s ≠ .refused r) ∧ ∀ f, exec i s = .fault f → portFault s.map f) ∧
    (∀ (k : InterruptKind) (f : Fault), s.interruptEntry k = .error f → portFault s.map f) ∧
    (∀ (a : Word) (f : Fault), s.load a = .error f → f = .unimplementedMemory a .read) ∧
    (∀ (a : Word) (v : Byte) (f : Fault), s.store a v = .error f → f = .unimplementedMemory a .write)

/-- With every address RAM, every official instruction completes. 60_exceptions.md R300, R305, 30_encoding.md R104,
40_engine_addressing.md R133. -/
def Obligations.FlatMemoryCompletes : Prop :=
  ∀ (i : Instr) (s : State), s.map = Config.flat → mnemonicOf i ≠ .illegal → ∃ t, exec i s = .next t

/-- A refused pointer or operand access is the instruction's fault, in access order. 40_engine_addressing.md R135, R139,
R149, R150, 20_memory.md R69, 60_exceptions.md R304, R313. -/
def Obligations.OperandAccessFaults : Prop :=
  ∀ (i : Instr) (am : AddressingMode) (s : State) (f : Fault), operandOf i = .mode am →
    (mnemonicOf i ∈ readers ++ writers → locate am s = .error f → exec i s = .fault f) ∧
    ∀ (ea : Word) (crossed : Bool) (u : State), locate am s = .ok (.memory ea crossed, u) →
      (mnemonicOf i ∈ readers ++ [.inc, .dec, .asl, .lsr, .rol, .ror] → u.load ea = .error f → exec i s = .fault f) ∧
      (mnemonicOf i = .sta → u.store ea s.a = .error f → exec i s = .fault f) ∧
      (mnemonicOf i = .stx → u.store ea s.x = .error f → exec i s = .fault f) ∧
      (mnemonicOf i = .sty → u.store ea s.y = .error f → exec i s = .fault f) ∧
      ∀ (m r : Byte) (v : State), u.read ea = .ok (m, v) →
        (mnemonicOf i = .inc → v.store ea (m + 1#8) = .error f → exec i s = .fault f) ∧
        (mnemonicOf i = .dec → v.store ea (m - 1#8) = .error f → exec i s = .fault f) ∧
        (mnemonicOf i ∈ [.asl, .lsr, .rol, .ror] → r.toNat = (shiftOutcome (mnemonicOf i) m.toNat s.c).1 →
          v.store ea r = .error f → exec i s = .fault f)

/-- The documented address map, and the regions of a cartridge or of another port. The regions, and a unit outside the
model that answers by a free function of the accesses it has answered, are the model's form of "contents and
writability are the cartridge's" (log entry 3, DESIGN CHOICE). 20_memory.md R61, R66, R68, R69, R71,
92_eei_decisions.md D18. -/
def Obligations.DocumentedMap : Prop :=
  ∀ (s : State) (a : Word) (v : Byte),
    (∀ (mirroring : Bool) (cartridge : List Config.Region), s.map = .documented mirroring cartridge →
      if a.toNat < 0x0800 then
        s.read a = .ok (Memory.read s.mem a.toNat, s) ∧
        s.store a v = .ok { s with mem := Memory.write s.mem a.toNat v }
      else if a.toNat < 0x2000 ∧ mirroring = true then
        s.read a = .ok (Memory.read s.mem (a.toNat % 0x0800), s) ∧
        s.store a v = .ok { s with mem := Memory.write s.mem (a.toNat % 0x0800) v }
      else if a.toNat < 0x4020 then
        s.read a = .error (.unimplementedMemory a .read) ∧ s.store a v = .error (.unimplementedMemory a .write)
      else regionPort cartridge s a v) ∧
    ∀ all : List Config.Region, s.map = .regions all → regionPort all s a v

/-- Push writes at 0x0100 + SP and then decrements SP mod 256. R136. -/
def Obligations.PushWritesThenDecrements : Prop :=
  ∀ (s : State) (v : Byte),
    (∀ t, s.store (BitVec.ofNat 16 (0x0100 + s.sp.toNat)) v = .ok t → s.push v = .ok { t with sp := s.sp - 1#8 }) ∧
    (∀ f, s.store (BitVec.ofNat 16 (0x0100 + s.sp.toNat)) v = .error f → s.push v = .error f) ∧
    (stackRam s →
      s.push v = .ok { s with mem := Memory.write s.mem (0x0100 + s.sp.toNat) v, sp := s.sp - 1#8 }) ∧
    (s.sp - 1#8).toNat = (s.sp.toNat + 255) % 256

/-- Pop increments SP, then reads; a pop after a push gives the byte back and restores SP. R137. -/
def Obligations.PopReversesPush : Prop :=
  (∀ (s t : State) (v : Byte), s.read (BitVec.ofNat 16 (0x0100 + (s.sp.toNat + 1) % 256)) = .ok (v, t) →
      s.pop = .ok (v, { t with sp := s.sp + 1#8 })) ∧
    (∀ (s : State) (f : Fault), s.read (BitVec.ofNat 16 (0x0100 + (s.sp.toNat + 1) % 256)) = .error f →
      s.pop = .error f) ∧
    ∀ (s t : State) (v : Byte), stackRam s → s.push v = .ok t → t.pop = .ok (v, { t with sp := s.sp })

/-- The ten addressing modes: where each finds its operand. 40_engine_addressing.md R139, R141 to R150,
92_eei_decisions.md D25. -/
def Obligations.AddressingModes : Prop :=
  ∀ (s : State) (b : Byte) (w : Word),
    locate .accumulator s = .ok (.accumulator, s) ∧ Located.load .accumulator s = .ok (s.a, s) ∧
    Located.save .accumulator b s = .ok { s with a := b } ∧
    (∀ v, locate (.immediate b) s = .ok (.literal b, s) ∧ Located.load (.literal b) s = .ok (b, s) ∧
      Located.save (.literal b) v s = .error .immediateStore) ∧
    locate (.zeroPage b) s = .ok (.memory (BitVec.ofNat 16 b.toNat) false, s) ∧
    locate (.zeroPageX b) s = .ok (.memory (BitVec.ofNat 16 ((b.toNat + s.x.toNat) % 256)) false, s) ∧
    locate (.zeroPageY b) s = .ok (.memory (BitVec.ofNat 16 ((b.toNat + s.y.toNat) % 256)) false, s) ∧
    locate (.absolute w) s = .ok (.memory w false, s) ∧
    (∃ k, locate (.absoluteX w) s = .ok (.memory (BitVec.ofNat 16 (w.toNat + s.x.toNat)) k, s)) ∧
    (∃ k, locate (.absoluteY w) s = .ok (.memory (BitVec.ofNat 16 (w.toNat + s.y.toNat)) k, s)) ∧
    (∀ f, s.read (BitVec.ofNat 16 ((b.toNat + s.x.toNat) % 256)) = .error f → locate (.indexedIndirect b) s = .error f) ∧
    (∀ lo t, s.read (BitVec.ofNat 16 ((b.toNat + s.x.toNat) % 256)) = .ok (lo, t) →
      (∀ f, t.read (BitVec.ofNat 16 ((b.toNat + s.x.toNat + 1) % 256)) = .error f →
        locate (.indexedIndirect b) s = .error f) ∧
      ∀ hi u, t.read (BitVec.ofNat 16 ((b.toNat + s.x.toNat + 1) % 256)) = .ok (hi, u) →
        locate (.indexedIndirect b) s = .ok (.memory (BitVec.ofNat 16 (hi.toNat * 256 + lo.toNat)) false, u)) ∧
    (∀ f, s.read (BitVec.ofNat 16 b.toNat) = .error f → locate (.indirectIndexed b) s = .error f) ∧
    (∀ lo t, s.read (BitVec.ofNat 16 b.toNat) = .ok (lo, t) →
      (∀ f, t.read (BitVec.ofNat 16 ((b.toNat + 1) % 256)) = .error f → locate (.indirectIndexed b) s = .error f) ∧
      ∀ hi u, t.read (BitVec.ofNat 16 ((b.toNat + 1) % 256)) = .ok (hi, u) → ∃ k, locate (.indirectIndexed b) s =
        .ok (.memory (BitVec.ofNat 16 (hi.toNat * 256 + lo.toNat + s.y.toNat)) k, u)) ∧
    (∀ k, Located.load (.memory w k) s = s.read w ∧ Located.save (.memory w k) b s = s.store w b)

/-- crossed exactly when indexing changes the high byte of the address. R154. -/
def Obligations.PageCrossing : Prop :=
  ∀ (s t : State) (b : Byte) (w base ea : Word) (k : Bool),
    (locate (.absoluteX w) s = .ok (.memory ea k, t) →
      (k = true ↔ w.toNat / 256 ≠ ea.toNat / 256) ∧ (s.x = 0#8 → k = false)) ∧
    (locate (.absoluteY w) s = .ok (.memory ea k, t) →
      (k = true ↔ w.toNat / 256 ≠ ea.toNat / 256) ∧ (s.y = 0#8 → k = false)) ∧
    (∀ u, s.readPointer b = .ok (base, u) → locate (.indirectIndexed b) s = .ok (.memory ea k, t) →
      (k = true ↔ base.toNat / 256 ≠ ea.toNat / 256) ∧ (s.y = 0#8 → k = false)) ∧
    (∀ am l, (∀ v, am ≠ .absoluteX v ∧ am ≠ .absoluteY v) → (∀ v, am ≠ .indirectIndexed v) →
      locate am s = .ok (l, t) → l.crossed = false)

/-- LDA, LDX and LDY: the register takes the operand, then SetZN. 41_load_store_transfer.md R160, R161, R162. -/
def Obligations.LoadResults : Prop :=
  ∀ (i : Instr) (am : AddressingMode) (s u v : State) (l : Located) (m : Byte), operandOf i = .mode am →
    locate am s = .ok (l, u) → l.load u = .ok (m, v) →
    (mnemonicOf i = .lda → exec i s = .next { s with
      external := v.external, a := m, p := Flags.setZN s.p m, pc := nextPC i s,
      cycles := s.cycles + cycleCost s.timing i l.crossed 0 }) ∧
    (mnemonicOf i = .ldx → exec i s = .next { s with
      external := v.external, x := m, p := Flags.setZN s.p m, pc := nextPC i s,
      cycles := s.cycles + cycleCost s.timing i l.crossed 0 }) ∧
    (mnemonicOf i = .ldy → exec i s = .next { s with
      external := v.external, y := m, p := Flags.setZN s.p m, pc := nextPC i s,
      cycles := s.cycles + cycleCost s.timing i l.crossed 0 })

/-- STA, STX and STY store the register and write no flag. 41_load_store_transfer.md R163, R164, R165, 92_eei_decisions.md
D4. -/
def Obligations.StoreResults : Prop :=
  ∀ (i : Instr) (am : AddressingMode) (s t u : State) (ea : Word) (k : Bool), operandOf i = .mode am →
    locate am s = .ok (.memory ea k, u) →
    (mnemonicOf i = .sta → u.store ea s.a = .ok t → exec i s = .next { s with
      mem := t.mem, external := t.external, pc := nextPC i s, cycles := s.cycles + cycleCost s.timing i k 0 }) ∧
    (mnemonicOf i = .stx → u.store ea s.x = .ok t → exec i s = .next { s with
      mem := t.mem, external := t.external, pc := nextPC i s, cycles := s.cycles + cycleCost s.timing i k 0 }) ∧
    (mnemonicOf i = .sty → u.store ea s.y = .ok t → exec i s = .next { s with
      mem := t.mem, external := t.external, pc := nextPC i s, cycles := s.cycles + cycleCost s.timing i k 0 })

/-- The register transfers. 41_load_store_transfer.md R166 to R171, 92_eei_decisions.md D4. -/
def Obligations.TransferResults : Prop :=
  ∀ s : State,
    exec .tax s = .next { s with
      x := s.a, p := Flags.setZN s.p s.a, pc := s.pc + 1#16, cycles := s.cycles + (costOf s.timing .tax).base } ∧
    exec .tay s = .next { s with
      y := s.a, p := Flags.setZN s.p s.a, pc := s.pc + 1#16, cycles := s.cycles + (costOf s.timing .tay).base } ∧
    exec .txa s = .next { s with
      a := s.x, p := Flags.setZN s.p s.x, pc := s.pc + 1#16, cycles := s.cycles + (costOf s.timing .txa).base } ∧
    exec .tya s = .next { s with
      a := s.y, p := Flags.setZN s.p s.y, pc := s.pc + 1#16, cycles := s.cycles + (costOf s.timing .tya).base } ∧
    exec .tsx s = .next { s with
      x := s.sp, p := Flags.setZN s.p s.sp, pc := s.pc + 1#16, cycles := s.cycles + (costOf s.timing .tsx).base } ∧
    exec .txs s = .next { s with sp := s.x, pc := s.pc + 1#16, cycles := s.cycles + (costOf s.timing .txs).base }

/-- ADC: the binary sum with carry, unsigned carry out and signed overflow. 42_arithmetic_logic.md R190, 10_state.md R27,
R33. -/
def Obligations.AdcResult : Prop :=
  ∀ (i : Instr) (am : AddressingMode) (s u v : State) (l : Located) (m : Byte), operandOf i = .mode am →
    locate am s = .ok (l, u) → l.load u = .ok (m, v) → mnemonicOf i = .adc →
    ∃ t, exec i s = .next t ∧
      t.a.toNat = (s.a.toNat + m.toNat + (if s.c then 1 else 0)) % 256 ∧
      (t.c = true ↔ 255 < s.a.toNat + m.toNat + (if s.c then 1 else 0)) ∧
      (t.v = true ↔ s.a.toInt + m.toInt + (if s.c then 1 else 0) < -128 ∨ 127 < s.a.toInt + m.toInt + (if s.c then 1 else 0)) ∧
      znOf t t.a.toNat ∧ sameControlBits s t ∧
      t = { s with
        external := v.external, a := t.a, p := t.p, pc := nextPC i s,
        cycles := s.cycles + cycleCost s.timing i l.crossed 0 }

/-- SBC: the difference with borrow, C = 1 meaning no borrow, and signed overflow. 42_arithmetic_logic.md R191,
10_state.md R27, R33. -/
def Obligations.SbcResult : Prop :=
  ∀ (i : Instr) (am : AddressingMode) (s u v : State) (l : Located) (m : Byte), operandOf i = .mode am →
    locate am s = .ok (l, u) → l.load u = .ok (m, v) → mnemonicOf i = .sbc →
    ∃ t, exec i s = .next t ∧
      (t.a.toNat : Int) = ((s.a.toNat : Int) - m.toNat - (if s.c then 0 else 1)) % 256 ∧
      (t.c = true ↔ (0 : Int) ≤ (s.a.toNat : Int) - m.toNat - (if s.c then 0 else 1)) ∧
      (t.v = true ↔ s.a.toInt - m.toInt - (if s.c then 0 else 1) < -128 ∨ 127 < s.a.toInt - m.toInt - (if s.c then 0 else 1)) ∧
      znOf t t.a.toNat ∧ sameControlBits s t ∧
      t = { s with
        external := v.external, a := t.a, p := t.p, pc := nextPC i s,
        cycles := s.cycles + cycleCost s.timing i l.crossed 0 }

/-- AND, ORA, EOR and BIT. 42_arithmetic_logic.md R192, R193, R194, R195, 92_eei_decisions.md D4. -/
def Obligations.LogicResults : Prop :=
  ∀ (i : Instr) (am : AddressingMode) (s u v : State) (l : Located) (m : Byte), operandOf i = .mode am →
    locate am s = .ok (l, u) → l.load u = .ok (m, v) →
    (mnemonicOf i = .and → exec i s = .next { s with
      external := v.external, a := s.a &&& m, p := Flags.setZN s.p (s.a &&& m), pc := nextPC i s,
      cycles := s.cycles + cycleCost s.timing i l.crossed 0 }) ∧
    (mnemonicOf i = .ora → exec i s = .next { s with
      external := v.external, a := s.a ||| m, p := Flags.setZN s.p (s.a ||| m), pc := nextPC i s,
      cycles := s.cycles + cycleCost s.timing i l.crossed 0 }) ∧
    (mnemonicOf i = .eor → exec i s = .next { s with
      external := v.external, a := s.a ^^^ m, p := Flags.setZN s.p (s.a ^^^ m), pc := nextPC i s,
      cycles := s.cycles + cycleCost s.timing i l.crossed 0 }) ∧
    (mnemonicOf i = .bit → ∃ t, exec i s = .next t ∧ (t.z = true ↔ s.a &&& m = 0#8) ∧ t.n = m.getLsbD 7 ∧
      t.v = m.getLsbD 6 ∧ t.c = s.c ∧ sameControlBits s t ∧
      t = { s with
        external := v.external, p := t.p, pc := nextPC i s,
        cycles := s.cycles + cycleCost s.timing i l.crossed 0 })

/-- INC and DEC: one load, one store of the result at the same address, SetZN. 42_arithmetic_logic.md R196, R197,
92_eei_decisions.md D4. -/
def Obligations.IncDecResults : Prop :=
  ∀ (i : Instr) (am : AddressingMode) (s t u v : State) (ea : Word) (k : Bool) (m : Byte), operandOf i = .mode am →
    locate am s = .ok (.memory ea k, u) → u.read ea = .ok (m, v) →
    (mnemonicOf i = .inc → v.store ea (m + 1#8) = .ok t → exec i s = .next { s with
      mem := t.mem, external := t.external, p := Flags.setZN s.p (m + 1#8), pc := nextPC i s,
      cycles := s.cycles + cycleCost s.timing i k 0 }) ∧
    (mnemonicOf i = .dec → v.store ea (m - 1#8) = .ok t → exec i s = .next { s with
      mem := t.mem, external := t.external, p := Flags.setZN s.p (m - 1#8), pc := nextPC i s,
      cycles := s.cycles + cycleCost s.timing i k 0 })

/-- INX, INY, DEX and DEY wrap mod 256 and do SetZN. 42_arithmetic_logic.md R198 to R201, 92_eei_decisions.md D4. -/
def Obligations.IndexStepResults : Prop :=
  ∀ s : State,
    exec .inx s = .next { s with
      x := s.x + 1#8, p := Flags.setZN s.p (s.x + 1#8), pc := s.pc + 1#16, cycles := s.cycles + (costOf s.timing .inx).base } ∧
    exec .iny s = .next { s with
      y := s.y + 1#8, p := Flags.setZN s.p (s.y + 1#8), pc := s.pc + 1#16, cycles := s.cycles + (costOf s.timing .iny).base } ∧
    exec .dex s = .next { s with
      x := s.x - 1#8, p := Flags.setZN s.p (s.x - 1#8), pc := s.pc + 1#16, cycles := s.cycles + (costOf s.timing .dex).base } ∧
    exec .dey s = .next { s with
      y := s.y - 1#8, p := Flags.setZN s.p (s.y - 1#8), pc := s.pc + 1#16, cycles := s.cycles + (costOf s.timing .dey).base }

/-- ASL, LSR, ROL and ROR of the accumulator. 43_shift_rotate.md R220 to R224, 92_eei_decisions.md D15. -/
def Obligations.AccumulatorShiftResults : Prop :=
  ∀ (i : Instr) (s : State), mnemonicOf i ∈ [.asl, .lsr, .rol, .ror] → operandOf i = .mode .accumulator →
    ∃ t, exec i s = .next t ∧
      t.a.toNat = (shiftOutcome (mnemonicOf i) s.a.toNat s.c).1 ∧ t.c = (shiftOutcome (mnemonicOf i) s.a.toNat s.c).2 ∧
      znOf t t.a.toNat ∧ t.v = s.v ∧ sameControlBits s t ∧
      t = { s with a := t.a, p := t.p, pc := s.pc + 1#16, cycles := s.cycles + (costOf s.timing i).base }

/-- ASL, LSR, ROL and ROR of a memory byte. 43_shift_rotate.md R220 to R224, 92_eei_decisions.md D15. -/
def Obligations.MemoryShiftResults : Prop :=
  ∀ (i : Instr) (am : AddressingMode) (s u v w : State) (ea : Word) (k : Bool) (m r : Byte),
    mnemonicOf i ∈ [.asl, .lsr, .rol, .ror] → operandOf i = .mode am → locate am s = .ok (.memory ea k, u) →
    u.read ea = .ok (m, v) → r.toNat = (shiftOutcome (mnemonicOf i) m.toNat s.c).1 → v.store ea r = .ok w →
    ∃ t, exec i s = .next t ∧ t.c = (shiftOutcome (mnemonicOf i) m.toNat s.c).2 ∧ znOf t r.toNat ∧ t.v = s.v ∧
      sameControlBits s t ∧
      t = { s with
        mem := w.mem, external := w.external, p := t.p, pc := nextPC i s,
        cycles := s.cycles + cycleCost s.timing i k 0 }

/-- Nine ROLs restore both the value and C, in the accumulator and in memory. 43_shift_rotate.md R223. -/
def Obligations.NineRotatesRestore : Prop :=
  ∀ s : State, (∃ t, repeated .rolAcc 9 s = .next t ∧ t.a = s.a ∧ t.c = s.c) ∧
    ∀ (i : Instr) (am : AddressingMode) (u : State) (ea : Word) (k : Bool) (c : Nat), mnemonicOf i = .rol →
      operandOf i = .mode am → locate am s = .ok (.memory ea k, u) → Memory.storeEffect s.map ea = .writes c →
      ∃ t, repeated i 9 s = .next t ∧ t.load ea = s.load ea ∧ t.c = s.c

/-- CMP, CPX and CPY: unsigned comparison in C, equality in Z, the truncated sign in N. 44_compare.md R230 to R233. -/
def Obligations.CompareResults : Prop :=
  ∀ (i : Instr) (am : AddressingMode) (s u v : State) (l : Located) (m reg : Byte), operandOf i = .mode am →
    locate am s = .ok (l, u) → l.load u = .ok (m, v) →
    (mnemonicOf i, reg) ∈ [(Mnemonic.cmp, s.a), (Mnemonic.cpx, s.x), (Mnemonic.cpy, s.y)] →
    ∃ t, exec i s = .next t ∧ (t.c = true ↔ m.toNat ≤ reg.toNat) ∧ (t.z = true ↔ reg = m) ∧
      (t.n = true ↔ 128 ≤ ((reg.toNat : Int) - m.toNat) % 256) ∧ t.v = s.v ∧ sameControlBits s t ∧
      t = { s with
        external := v.external, p := t.p, pc := nextPC i s,
        cycles := s.cycles + cycleCost s.timing i l.crossed 0 }

/-- The eight branches: target, extra cycles, and nothing else. 45_branch.md R240 to R248, 92_eei_decisions.md D21. -/
def Obligations.BranchResults : Prop :=
  ∀ (i : Instr) (offset : Byte) (s : State) (flag want : Bool), operandOf i = .relative offset →
    (mnemonicOf i, flag, want) ∈
      [(Mnemonic.bcc, s.c, false), (Mnemonic.bcs, s.c, true), (Mnemonic.beq, s.z, true), (Mnemonic.bne, s.z, false),
       (Mnemonic.bmi, s.n, true), (Mnemonic.bpl, s.n, false), (Mnemonic.bvc, s.v, false), (Mnemonic.bvs, s.v, true)] →
    (flag = want → ∃ target : Word,
      (target.toNat : Int) = ((s.pc + 2#16).toNat + offset.toInt) % 65536 ∧
      exec i s = .next { s with
        pc := target
        cycles := s.cycles + ((costOf s.timing i).base + (s.timing.branchTaken +
          (if (s.pc + 2#16).toNat / 256 = target.toNat / 256 then 0 else s.timing.branchCrossed))) }) ∧
    (flag ≠ want → exec i s = .next { s with pc := s.pc + 2#16, cycles := s.cycles + (costOf s.timing i).base })

/-- BRK: what it saves, changes and where it goes, and its faults. 46_system_stack_flags.md R260, 60_exceptions.md R304,
R311, 92_eei_decisions.md D7, D8. -/
def Obligations.BrkEffect : Prop :=
  ∀ s : State,
    (∀ lo hi x, entryAccesses s (s.pc + 2#16) (s.p ||| 0x30#8) 0xFFFE#16 = .ok (lo, hi, x) →
      exec .brk s = .next { s with
        mem := x.mem
        external := x.external
        sp := s.sp - 3#8
        p := Flags.put s.p Flags.iBit true
        pc := Bits.join hi lo
        cycles := s.cycles + (costOf s.timing .brk).base }) ∧
    (∀ f, entryAccesses s (s.pc + 2#16) (s.p ||| 0x30#8) 0xFFFE#16 = .error f → exec .brk s = .fault f)

/-- RTI: the status, then PCL, then PCH from the stack, and its faults. 46_system_stack_flags.md R261, 60_exceptions.md
R304, R312, 92_eei_decisions.md D4, D7. -/
def Obligations.RtiEffect : Prop :=
  ∀ s : State,
    (∀ p lo hi v, returnAccesses s = .ok (p, lo, hi, v) → exec .rti s = .next { s with
      external := v.external, p := (p &&& 0xCF#8) ||| 0x20#8, pc := Bits.join hi lo, sp := s.sp + 3#8,
      cycles := s.cycles + (costOf s.timing .rti).base }) ∧
    (∀ f, returnAccesses s = .error f → exec .rti s = .fault f)

/-- RTI undoes BRK and interrupt entry. 46_system_stack_flags.md R260, R261, 60_exceptions.md R310, R312. -/
def Obligations.RtiReturnsFromEntry : Prop :=
  ∀ s t : State, stackRam s → statusFixed s.p →
    ((exec .brk s = .next t → ∃ u, exec .rti t = .next u ∧ u.pc = s.pc + 2#16 ∧ u.p = s.p ∧ u.sp = s.sp ∧
        u.a = s.a ∧ u.x = s.x ∧ u.y = s.y) ∧
     (∀ k, s.fault = none → s.stall = 0#8 → s.poll = some k → step s = .next t →
       ∃ u, exec .rti t = .next u ∧ u.pc = s.pc ∧ u.p = s.p ∧ u.sp = s.sp ∧ u.a = s.a ∧ u.x = s.x ∧ u.y = s.y))

/-- Bit 4 of the status byte on the stack is 1 after BRK and 0 after an interrupt. 60_exceptions.md R311,
92_eei_decisions.md D7. -/
def Obligations.BreakBitTellsBrkFromInterrupt : Prop :=
  ∀ s t : State, stackRam s →
    (exec .brk s = .next t → ∃ b, t.load (stackAddress (t.sp + 1#8)) = .ok b ∧ b.getLsbD 4 = true) ∧
    (∀ k, s.fault = none → s.stall = 0#8 → s.poll = some k → step s = .next t →
      ∃ b, t.load (stackAddress (t.sp + 1#8)) = .ok b ∧ b.getLsbD 4 = false)

/-- PHA, PHP, PLA and PLP, and their faults. 46_system_stack_flags.md R262 to R265, 60_exceptions.md R304,
92_eei_decisions.md D4, D7. -/
def Obligations.StackInstructionResults : Prop :=
  ∀ (s : State),
    (∀ t, s.store (slot s 0) s.a = .ok t → exec .pha s = .next { s with
      mem := t.mem, external := t.external, sp := s.sp - 1#8, pc := s.pc + 1#16,
      cycles := s.cycles + (costOf s.timing .pha).base }) ∧
    (∀ f, s.store (slot s 0) s.a = .error f → exec .pha s = .fault f) ∧
    (∀ t, s.store (slot s 0) (s.p ||| 0x30#8) = .ok t → exec .php s = .next { s with
      mem := t.mem, external := t.external, sp := s.sp - 1#8, pc := s.pc + 1#16,
      cycles := s.cycles + (costOf s.timing .php).base }) ∧
    (∀ f, s.store (slot s 0) (s.p ||| 0x30#8) = .error f → exec .php s = .fault f) ∧
    (∀ v t, s.read (stackAddress (s.sp + 1#8)) = .ok (v, t) →
      exec .pla s = .next { s with
        external := t.external, a := v, p := Flags.setZN s.p v, sp := s.sp + 1#8, pc := s.pc + 1#16,
        cycles := s.cycles + (costOf s.timing .pla).base } ∧
      exec .plp s = .next { s with
        external := t.external, p := (v &&& 0xCF#8) ||| 0x20#8, sp := s.sp + 1#8, pc := s.pc + 1#16,
        cycles := s.cycles + (costOf s.timing .plp).base }) ∧
    (∀ f, s.read (stackAddress (s.sp + 1#8)) = .error f → exec .pla s = .fault f ∧ exec .plp s = .fault f)

/-- The seven flag instructions write one bit each; NOP writes nothing. 46_system_stack_flags.md R266 to R273,
92_eei_decisions.md D4. -/
def Obligations.FlagInstructionResults : Prop :=
  ∀ s : State,
    exec .clc s = .next { s with
      p := Flags.put s.p 0 false, pc := s.pc + 1#16, cycles := s.cycles + (costOf s.timing .clc).base } ∧
    exec .sec s = .next { s with
      p := Flags.put s.p 0 true, pc := s.pc + 1#16, cycles := s.cycles + (costOf s.timing .sec).base } ∧
    exec .cli s = .next { s with
      p := Flags.put s.p 2 false, pc := s.pc + 1#16, cycles := s.cycles + (costOf s.timing .cli).base } ∧
    exec .sei s = .next { s with
      p := Flags.put s.p 2 true, pc := s.pc + 1#16, cycles := s.cycles + (costOf s.timing .sei).base } ∧
    exec .cld s = .next { s with
      p := Flags.put s.p 3 false, pc := s.pc + 1#16, cycles := s.cycles + (costOf s.timing .cld).base } ∧
    exec .sed s = .next { s with
      p := Flags.put s.p 3 true, pc := s.pc + 1#16, cycles := s.cycles + (costOf s.timing .sed).base } ∧
    exec .clv s = .next { s with
      p := Flags.put s.p 6 false, pc := s.pc + 1#16, cycles := s.cycles + (costOf s.timing .clv).base } ∧
    exec .nop s = .next { s with pc := s.pc + 1#16, cycles := s.cycles + (costOf s.timing .nop).base }

/-- JMP absolute and JMP indirect with its page-wrap. 47_jump_subroutine.md R290, R291. -/
def Obligations.JumpResults : Prop :=
  ∀ (s : State) (w : Word),
    exec (.jmpAbs w) s = .next { s with pc := w, cycles := s.cycles + (costOf s.timing (.jmpAbs w)).base } ∧
    (∀ f, s.read w = .error f → exec (.jmpInd w) s = .fault f) ∧
    ∀ lo t, s.read w = .ok (lo, t) →
      (∀ hi u, t.read (BitVec.ofNat 16 (w.toNat / 256 * 256 + (w.toNat % 256 + 1) % 256)) = .ok (hi, u) →
        exec (.jmpInd w) s = .next { s with
          external := u.external, pc := BitVec.ofNat 16 (hi.toNat * 256 + lo.toNat),
          cycles := s.cycles + (costOf s.timing (.jmpInd w)).base }) ∧
      (∀ f, t.read (BitVec.ofNat 16 (w.toNat / 256 * 256 + (w.toNat % 256 + 1) % 256)) = .error f →
        exec (.jmpInd w) s = .fault f)

/-- JSR and RTS, and their faults. 47_jump_subroutine.md R292, R293, 40_engine_addressing.md R138, 60_exceptions.md R304. -/
def Obligations.CallResults : Prop :=
  ∀ (s : State) (w : Word),
    (∀ f, s.store (slot s 0) (Bits.hiByte (s.pc + 2#16)) = .error f → exec (.jsr w) s = .fault f) ∧
    (∀ t, s.store (slot s 0) (Bits.hiByte (s.pc + 2#16)) = .ok t →
      (∀ f, t.store (slot s 1) (Bits.loByte (s.pc + 2#16)) = .error f → exec (.jsr w) s = .fault f) ∧
      ∀ u, t.store (slot s 1) (Bits.loByte (s.pc + 2#16)) = .ok u → exec (.jsr w) s = .next { s with
        mem := u.mem, external := u.external, sp := s.sp - 2#8, pc := w,
        cycles := s.cycles + (costOf s.timing (.jsr w)).base }) ∧
    (∀ f, s.read (stackAddress (s.sp + 1#8)) = .error f → exec .rts s = .fault f) ∧
    ∀ lo t, s.read (stackAddress (s.sp + 1#8)) = .ok (lo, t) →
      (∀ f, t.read (stackAddress (s.sp + 2#8)) = .error f → exec .rts s = .fault f) ∧
      ∀ hi u, t.read (stackAddress (s.sp + 2#8)) = .ok (hi, u) → exec .rts s = .next { s with
        external := u.external, pc := Bits.join hi lo + 1#16, sp := s.sp + 2#8,
        cycles := s.cycles + (costOf s.timing .rts).base }

/-- Which instructions may change A, X, Y and SP. 10_state.md R21, R22, R23, R24. -/
def Obligations.RegisterFrame : Prop :=
  ∀ (i : Instr) (s t : State), exec i s = .next t →
    (mnemonicOf i ∉ [.lda, .adc, .sbc, .and, .ora, .eor, .pla, .txa, .tya] → operandOf i ≠ .mode .accumulator → t.a = s.a) ∧
    (mnemonicOf i ∉ [.ldx, .tax, .tsx, .inx, .dex] → t.x = s.x) ∧
    (mnemonicOf i ∉ [.ldy, .tay, .iny, .dey] → t.y = s.y) ∧
    (mnemonicOf i ∉ [.pha, .php, .pla, .plp, .jsr, .rts, .brk, .rti, .txs] → t.sp = s.sp)

/-- Which instructions may change each flag. 10_state.md R27 to R34, R37. -/
def Obligations.FlagFrame : Prop :=
  ∀ (i : Instr) (s t : State), exec i s = .next t →
    (mnemonicOf i ∉ [.adc, .sbc, .asl, .lsr, .rol, .ror, .cmp, .cpx, .cpy, .clc, .sec, .plp, .rti] → t.c = s.c) ∧
    (mnemonicOf i ∉ [.lda, .ldx, .ldy, .tax, .tay, .txa, .tya, .tsx, .pla, .and, .ora, .eor, .inc, .dec, .inx, .iny, .dex,
        .dey, .adc, .sbc, .asl, .lsr, .rol, .ror, .cmp, .cpx, .cpy, .bit, .plp, .rti] → t.z = s.z ∧ t.n = s.n) ∧
    (mnemonicOf i ∉ [.sei, .cli, .brk, .plp, .rti] → t.i = s.i) ∧
    (mnemonicOf i ∉ [.sed, .cld, .plp, .rti] → t.d = s.d) ∧
    (mnemonicOf i ∉ [.adc, .sbc, .bit, .clv, .plp, .rti] → t.v = s.v) ∧
    (mnemonicOf i ∉ [.plp, .rti] → Flags.get t.p Flags.bBit = Flags.get s.p Flags.bBit ∧
      Flags.get t.p Flags.uBit = Flags.get s.p Flags.uBit)

/-- An instruction that stores nothing leaves every byte of memory unchanged. What a unit outside the model answers may
change with each access to it (R66, log entry 3). 20_memory.md R66, 40_engine_addressing.md R139. -/
def Obligations.NonStoringFrame : Prop :=
  ∀ (i : Instr) (s t : State), exec i s = .next t → mnemonicOf i ∉ pushers →
    (mnemonicOf i ∈ writers → operandOf i = .mode .accumulator) →
    t.mem = s.mem ∧ ∀ b, Memory.placeOf s.map b ≠ .external → t.load b = s.load b

/-- A storing instruction changes only the byte at its effective address. 20_memory.md R65, R66, R68,
40_engine_addressing.md R140. -/
def Obligations.OperandStoreFrame : Prop :=
  ∀ (i : Instr) (am : AddressingMode) (s t u : State) (ea : Word) (k : Bool), exec i s = .next t →
    mnemonicOf i ∈ writers → operandOf i = .mode am → locate am s = .ok (.memory ea k, u) →
    ∀ b, Memory.placeOf s.map b ≠ .external → Memory.placeOf s.map b ≠ Memory.placeOf s.map ea → t.load b = s.load b

/-- A pushing instruction changes only its stack slots. 40_engine_addressing.md R136, R138, 20_memory.md R66. -/
def Obligations.StackStoreFrame : Prop :=
  ∀ (i : Instr) (s t : State), exec i s = .next t → mnemonicOf i ∈ pushers →
    ∀ b, Memory.placeOf s.map b ≠ .external →
      (∀ n, n < pushCount (mnemonicOf i) → Memory.placeOf s.map b ≠ Memory.placeOf s.map (slot s n)) →
      t.load b = s.load b

/-- What Reset, SetPC, SetStall, RaiseNMI and RaiseIRQ do between steps. That Reset keeps the map, the accesses external
regions have answered and the cycle numbers is the model's: they are its own fields (log entries 2, 3 and 4, DESIGN
CHOICE). So is that an address in an external region reads after Reset as before it (log entry 3); of memory, R343
says that Reset does not clear it. 60_exceptions.md R307, R308, 70_reset_and_hazards.md R340, R342, R343, 10_state.md
R42, 92_eei_decisions.md D10, D13, D16. -/
def Obligations.HostOperations : Prop :=
  ∀ (s : State) (n : Byte) (v : Word),
    s.hostReset = { State.reset with mem := s.mem, external := s.external, map := s.map, timing := s.timing } ∧
    (∀ b, s.hostReset.load b = s.load b) ∧
    s.raiseNMI = { s with interrupt := .nmi } ∧
    (s.interrupt = .none → s.raiseIRQ = { s with interrupt := .irq }) ∧
    (s.interrupt ≠ .none → s.raiseIRQ = s) ∧
    s.hostSetStall n = { s with stall := n } ∧ s.hostSetPC v = { s with pc := v }

/-- A fatal fault is recorded, a faulted machine has no step until Reset, and it is never a good end. That the other parts
are those before the step is the suggestion of the spec (log entry 8, DESIGN CHOICE). That step of a faulted machine
answers the recorded fault again is the model's (log entry 7, DEDUCED): R130 says only that it has no step.
40_engine_addressing.md R130, 10_state.md R41, 60_exceptions.md R305, 70_reset_and_hazards.md R353,
92_eei_decisions.md D6. -/
def Obligations.FaultStatus : Prop :=
  ∀ (s : State) (f : Fault),
    (step s = .fault f → s.hostStep = { s with fault := some f }) ∧
    (s.fault = some f → step s = .fault f ∧ s.hostStep = s ∧ s.hostReset.fault = none ∧
      (∀ done, ¬ endsWell done s) ∧ ∀ n, ¬ runsFor n s)

/-- PLA after PHA, PLP after PHP and RTS after JSR restore what was pushed. 46_system_stack_flags.md R262 to R265,
47_jump_subroutine.md R292, R293. -/
def Obligations.StackRoundTrips : Prop :=
  ∀ s t : State, stackRam s →
    (exec .pha s = .next t → ∃ u, exec .pla t = .next u ∧ u.a = s.a ∧ u.sp = s.sp) ∧
    (statusFixed s.p → exec .php s = .next t → ∃ u, exec .plp t = .next u ∧ u.p = s.p ∧ u.sp = s.sp) ∧
    (∀ w, exec (.jsr w) s = .next t → ∃ u, exec .rts t = .next u ∧
      u.pc = s.pc + 3#16 ∧ u.sp = s.sp ∧ u.a = s.a ∧ u.x = s.x ∧ u.y = s.y ∧ u.p = s.p)

/-- A load answers the latest store; every other cell is unchanged; a load changes no register and no memory. That a read
in an external region is added to the accesses these regions have answered, and changes nothing else, is the model's
(log entry 3, DESIGN CHOICE): R66 leaves the side effects of such a read to the Memory collaborator. 20_memory.md R62,
R65, R66, R71, R74, 92_eei_decisions.md D19, D26. -/
def Obligations.LoadAfterStore : Prop :=
  (∀ (s t : State) (a : Word) (v : Byte) (c : Nat), s.store a v = .ok t → Memory.storeEffect s.map a = .writes c →
      t = { s with mem := t.mem } ∧ t.load a = .ok v ∧
      ∀ b, t.load b = if Memory.placeOf s.map b = .cell c then .ok v else s.load b) ∧
    (∀ (s t : State) (a : Word) (v : Byte), s.read a = .ok (v, t) ↔ s.load a = .ok v ∧
      t = if Memory.placeOf s.map a = .external then { s with external := .read a :: s.external } else s) ∧
    ∀ (s : State) (b v : Byte), s.readZeroPage b = s.read (BitVec.ofNat 16 b.toNat) ∧
      s.storeZeroPage b v = s.store (BitVec.ofNat 16 b.toNat) v
end

