-- ==== Sys2Proof/Laws/Bits.lean ====
section
/-! SUPPORT. The byte-order and sign-extension helpers as arithmetic (spec/00_scope.md R10, R11). -/

namespace Sys2Proof.Machine.Bits

theorem join_toNat (hi lo : Byte) : (join hi lo).toNat = hi.toNat * 256 + lo.toNat := by
  have := lo.isLt
  unfold join
  rw [BitVec.toNat_append, ← Nat.shiftLeft_add_eq_or_of_lt (by omega), Nat.shiftLeft_eq]

theorem hiByte_toNat (w : Word) : (hiByte w).toNat = w.toNat / 256 := by
  have := w.isLt
  simp [hiByte, Nat.shiftRight_eq_div_pow]
  omega

theorem loByte_toNat (w : Word) : (loByte w).toNat = w.toNat % 256 := by
  simp [loByte]

/-- A word is the join of its bytes. -/
theorem join_bytes (w : Word) : join (hiByte w) (loByte w) = w := by
  apply BitVec.eq_of_toNat_eq
  rw [join_toNat, hiByte_toNat, loByte_toNat]
  omega

@[simp] theorem hiByte_join (hi lo : Byte) : hiByte (join hi lo) = hi := by
  have := lo.isLt
  apply BitVec.eq_of_toNat_eq
  rw [hiByte_toNat, join_toNat]
  omega

@[simp] theorem loByte_join (hi lo : Byte) : loByte (join hi lo) = lo := by
  have := lo.isLt
  apply BitVec.eq_of_toNat_eq
  rw [loByte_toNat, join_toNat]
  omega

theorem zext16_toNat (v : Byte) : (zext16 v).toNat = v.toNat := by
  have := v.isLt
  simp [zext16]
  omega

/-- `sext_16` is the signed value taken mod 65536 (R11). -/
theorem sext16_toNat (v : Byte) : ((sext16 v).toNat : Int) = v.toInt % 65536 := by
  have := v.isLt
  unfold sext16
  rw [BitVec.toInt_eq_toNat_cond]
  split
  · rw [zext16_toNat, if_pos (by omega)]
    omega
  · have e : (0xFF00#16).toNat = 65280 := rfl
    rw [BitVec.toNat_add, zext16_toNat, if_neg (by omega), e]
    omega

end Sys2Proof.Machine.Bits
end

