-- ==== Sys2Proof/Laws/Memory.lean ====
section
/-! SUPPORT. Reading after writing, and the canonical form of memory (spec/20_memory.md R66, R68, R71). -/

namespace Sys2Proof.Machine

theorem Memory.read_erase (m : Memory) (c d : Nat) :
    Memory.read (Memory.erase m c) d = if d = c then Config.unlistedByte else Memory.read m d := by
  induction m with
  | nil => simp [Memory.erase, Memory.read]
  | cons e rest ih =>
    obtain ⟨k, b⟩ := e
    by_cases hk : k = c
    · subst hk
      rw [Memory.erase, if_pos rfl, ih, Memory.read]
      split <;> simp_all [eq_comm]
    · rw [Memory.erase, if_neg hk, Memory.read, ih, Memory.read]
      split <;> simp_all

theorem Memory.read_insert (m : Memory) (c d : Nat) (v : Byte) (h : ∀ e ∈ m, e.1 ≠ c) :
    Memory.read (Memory.insert m c v) d = if d = c then v else Memory.read m d := by
  induction m with
  | nil => simp [Memory.insert, Memory.read, eq_comm]
  | cons e rest ih =>
    obtain ⟨k, b⟩ := e
    have hk : k ≠ c := h (k, b) (by simp)
    have ih := ih fun e he => h e (by simp [he])
    unfold Memory.insert
    split
    · by_cases hd : d = c
      · simp [hd, Memory.read]
      · simp [hd, Memory.read, Ne.symm hd]
    · rw [Memory.read, ih, Memory.read]
      split <;> simp_all

theorem Memory.erase_not_mem (m : Memory) (c : Nat) : ∀ e ∈ Memory.erase m c, e.1 ≠ c := by
  induction m with
  | nil => simp [Memory.erase]
  | cons e rest ih =>
    obtain ⟨k, b⟩ := e
    unfold Memory.erase
    split
    · exact ih
    · rename_i hk
      intro e he
      rcases List.mem_cons.1 he with rfl | he
      · exact hk
      · exact ih e he

/-- A read after a write: the written byte at that cell, the old byte at every other. -/
theorem Memory.read_write (m : Memory) (c d : Nat) (v : Byte) :
    Memory.read (Memory.write m c v) d = if d = c then v else Memory.read m d := by
  unfold Memory.write
  split
  · subst v; exact Memory.read_erase m c d
  · rw [Memory.read_insert _ _ _ _ (Memory.erase_not_mem m c), Memory.read_erase]
    split <;> simp_all

@[simp] theorem Memory.read_write_same (m : Memory) (c : Nat) (v : Byte) :
    Memory.read (Memory.write m c v) c = v := by simp [Memory.read_write]

theorem Memory.read_write_other (m : Memory) {c d : Nat} (v : Byte) (h : d ≠ c) :
    Memory.read (Memory.write m c v) d = Memory.read m d := by simp [Memory.read_write, h]

theorem Memory.mem_erase {m : Memory} {c : Nat} {e : Host.Cell} (h : e ∈ Memory.erase m c) : e ∈ m := by
  induction m with
  | nil => simp [Memory.erase] at h
  | cons e rest ih =>
    obtain ⟨k, b⟩ := e
    unfold Memory.erase at h
    split at h
    · exact List.mem_cons_of_mem _ (ih h)
    · rcases List.mem_cons.1 h with rfl | h
      · exact List.mem_cons_self
      · exact List.mem_cons_of_mem _ (ih h)

theorem Memory.erase_wf {m : Memory} (c : Nat) (h : Memory.wf m) : Memory.wf (Memory.erase m c) := by
  refine ⟨?_, fun e he => h.2 e (Memory.mem_erase he)⟩
  have hp := h.1
  clear h
  induction m with
  | nil => simp [Memory.erase]
  | cons e rest ih =>
    obtain ⟨k, b⟩ := e
    rw [List.pairwise_cons] at hp
    unfold Memory.erase
    split
    · exact ih hp.2
    · exact List.pairwise_cons.2 ⟨fun e he => hp.1 e (Memory.mem_erase he), ih hp.2⟩

theorem Memory.mem_insert {m : Memory} {c : Nat} {v : Byte} {e : Host.Cell} (h : e ∈ Memory.insert m c v) :
    e = (c, v) ∨ e ∈ m := by
  induction m with
  | nil => simpa [Memory.insert] using h
  | cons e rest ih =>
    obtain ⟨k, b⟩ := e
    unfold Memory.insert at h
    split at h
    · exact List.mem_cons.1 h
    · rcases List.mem_cons.1 h with rfl | h
      · exact .inr List.mem_cons_self
      · exact (ih h).imp_right (List.mem_cons_of_mem _)

theorem Memory.insert_wf {m : Memory} {c : Nat} {v : Byte} (h : Memory.wf m) (hc : ∀ e ∈ m, e.1 ≠ c)
    (hr : c < 65536) (hv : v ≠ Config.unlistedByte) : Memory.wf (Memory.insert m c v) := by
  refine ⟨?_, fun e he => ?_⟩
  · have hp := h.1
    clear h
    induction m with
    | nil => simp [Memory.insert]
    | cons e rest ih =>
      obtain ⟨k, b⟩ := e
      have hp' := List.pairwise_cons.1 hp
      unfold Memory.insert
      split
      · rename_i hlt
        refine List.pairwise_cons.2 ⟨fun e he => ?_, hp⟩
        rcases List.mem_cons.1 he with rfl | he
        · exact hlt
        · exact lt_trans hlt (hp'.1 e he)
      · rename_i hle
        have hk : k ≠ c := hc (k, b) (by simp)
        refine List.pairwise_cons.2 ⟨fun e he => ?_, ih (fun e he => hc e (by simp [he])) hp'.2⟩
        rcases Memory.mem_insert he with rfl | he
        · simp only; omega
        · exact hp'.1 e he
  · rcases Memory.mem_insert he with rfl | he
    · exact ⟨hr, hv⟩
    · exact h.2 e he

/-- A write keeps the canonical form. -/
theorem Memory.write_wf {m : Memory} {c : Nat} (v : Byte) (h : Memory.wf m) (hr : c < 65536) :
    Memory.wf (Memory.write m c v) := by
  unfold Memory.write
  split
  · exact Memory.erase_wf c h
  · exact Memory.insert_wf (Memory.erase_wf c h) (Memory.erase_not_mem m c) hr ‹_›

theorem Memory.nil_wf : Memory.wf [] := by simp [Memory.wf]

theorem regionCell_lt (first cell size a : Nat) : regionCell first cell size a < 65536 :=
  Nat.mod_lt _ (by decide)

theorem placeIn_lt {regions : List Config.Region} {a c : Nat} (h : placeIn regions a = .cell c) : c < 65536 := by
  unfold placeIn at h
  split at h
  · cases h
  · split at h
    · cases h; exact regionCell_lt ..
    · cases h
    · cases h

/-- Every cell of a map is inside the address space. -/
theorem Memory.placeOf_lt {m : Config.MemMap} {a : Word} {c : Nat} (h : Memory.placeOf m a = .cell c) : c < 65536 := by
  have := a.isLt
  unfold Memory.placeOf at h
  split at h
  · exact placeIn_lt h
  · split at h
    · cases h; omega
    · split at h
      · split at h
        · cases h; omega
        · cases h
      · split at h
        · cases h
        · exact placeIn_lt h

/-- A store that lands writes the cell its address reads. -/
theorem Memory.storeEffect_writes {m : Config.MemMap} {a : Word} {c : Nat}
    (h : Memory.storeEffect m a = .writes c) : Memory.placeOf m a = .cell c := by
  unfold Memory.storeEffect at h
  split at h
  · cases h
  · cases h
  · split at h
    · cases h; assumption
    · cases h
    · cases h

/-- The stores that go to an external region are those whose address is in one. -/
theorem Memory.storeEffect_external {m : Config.MemMap} {a : Word} :
    Memory.storeEffect m a = .external ↔ Memory.placeOf m a = .external := by
  unfold Memory.storeEffect
  split
  · simp_all
  · simp_all
  · rename_i c hc
    rw [hc]
    split <;> simp

theorem Memory.placeOf_ram (mirroring : Bool) (cartridge : List Config.Region) {a : Word} (h : a.toNat < 0x0800) :
    Memory.placeOf (.documented mirroring cartridge) a = .cell a.toNat := by simp [Memory.placeOf, h]

theorem Memory.storeEffect_ram (mirroring : Bool) (cartridge : List Config.Region) {a : Word} (h : a.toNat < 0x0800) :
    Memory.storeEffect (.documented mirroring cartridge) a = .writes a.toNat := by
  have h' : a.toNat < 0x4020 := by omega
  simp [Memory.storeEffect, Memory.placeOf_ram mirroring cartridge h, Memory.policyOf, h']

/-- On the flat map every address is its own cell. -/
theorem Memory.placeOf_flat (a : Word) : Memory.placeOf Config.flat a = .cell a.toNat := by
  have := a.isLt
  have h : a.toNat ≤ 65535 := by omega
  simp [Memory.placeOf, Config.flat, placeIn, regionAt, regionCell, List.find?, h]
  omega

theorem Memory.storeEffect_flat (a : Word) : Memory.storeEffect Config.flat a = .writes a.toNat := by
  have := a.isLt
  have h : a.toNat ≤ 65535 := by omega
  have hp : Memory.policyOf Config.flat a = .keeps := by
    simp [Memory.policyOf, Config.flat, policyIn, regionAt, List.find?, h]
  simp [Memory.storeEffect, Memory.placeOf_flat, hp]

end Sys2Proof.Machine
end

