-- ==== Sys2Proof/Laws/State.lean ====
section
/-! SUPPORT. One lemma per field per register write, so that no proof unfolds a record update. -/

namespace Sys2Proof.Machine

section
variable (s : State)

@[simp] theorem State.setPC_pc (v : Word) : (s.setPC v).pc = v := rfl
@[simp] theorem State.setPC_sp (v : Word) : (s.setPC v).sp = s.sp := rfl
@[simp] theorem State.setPC_a (v : Word) : (s.setPC v).a = s.a := rfl
@[simp] theorem State.setPC_x (v : Word) : (s.setPC v).x = s.x := rfl
@[simp] theorem State.setPC_y (v : Word) : (s.setPC v).y = s.y := rfl
@[simp] theorem State.setPC_p (v : Word) : (s.setPC v).p = s.p := rfl
@[simp] theorem State.setPC_cycles (v : Word) : (s.setPC v).cycles = s.cycles := rfl
@[simp] theorem State.setPC_interrupt (v : Word) : (s.setPC v).interrupt = s.interrupt := rfl
@[simp] theorem State.setPC_stall (v : Word) : (s.setPC v).stall = s.stall := rfl
@[simp] theorem State.setPC_fault (v : Word) : (s.setPC v).fault = s.fault := rfl
@[simp] theorem State.setPC_mem (v : Word) : (s.setPC v).mem = s.mem := rfl
@[simp] theorem State.setPC_external (v : Word) : (s.setPC v).external = s.external := rfl
@[simp] theorem State.setPC_map (v : Word) : (s.setPC v).map = s.map := rfl
@[simp] theorem State.setPC_timing (v : Word) : (s.setPC v).timing = s.timing := rfl
@[simp] theorem State.setSP_pc (v : Byte) : (s.setSP v).pc = s.pc := rfl
@[simp] theorem State.setSP_sp (v : Byte) : (s.setSP v).sp = v := rfl
@[simp] theorem State.setSP_a (v : Byte) : (s.setSP v).a = s.a := rfl
@[simp] theorem State.setSP_x (v : Byte) : (s.setSP v).x = s.x := rfl
@[simp] theorem State.setSP_y (v : Byte) : (s.setSP v).y = s.y := rfl
@[simp] theorem State.setSP_p (v : Byte) : (s.setSP v).p = s.p := rfl
@[simp] theorem State.setSP_cycles (v : Byte) : (s.setSP v).cycles = s.cycles := rfl
@[simp] theorem State.setSP_interrupt (v : Byte) : (s.setSP v).interrupt = s.interrupt := rfl
@[simp] theorem State.setSP_stall (v : Byte) : (s.setSP v).stall = s.stall := rfl
@[simp] theorem State.setSP_fault (v : Byte) : (s.setSP v).fault = s.fault := rfl
@[simp] theorem State.setSP_mem (v : Byte) : (s.setSP v).mem = s.mem := rfl
@[simp] theorem State.setSP_external (v : Byte) : (s.setSP v).external = s.external := rfl
@[simp] theorem State.setSP_map (v : Byte) : (s.setSP v).map = s.map := rfl
@[simp] theorem State.setSP_timing (v : Byte) : (s.setSP v).timing = s.timing := rfl
@[simp] theorem State.setA_pc (v : Byte) : (s.setA v).pc = s.pc := rfl
@[simp] theorem State.setA_sp (v : Byte) : (s.setA v).sp = s.sp := rfl
@[simp] theorem State.setA_a (v : Byte) : (s.setA v).a = v := rfl
@[simp] theorem State.setA_x (v : Byte) : (s.setA v).x = s.x := rfl
@[simp] theorem State.setA_y (v : Byte) : (s.setA v).y = s.y := rfl
@[simp] theorem State.setA_p (v : Byte) : (s.setA v).p = s.p := rfl
@[simp] theorem State.setA_cycles (v : Byte) : (s.setA v).cycles = s.cycles := rfl
@[simp] theorem State.setA_interrupt (v : Byte) : (s.setA v).interrupt = s.interrupt := rfl
@[simp] theorem State.setA_stall (v : Byte) : (s.setA v).stall = s.stall := rfl
@[simp] theorem State.setA_fault (v : Byte) : (s.setA v).fault = s.fault := rfl
@[simp] theorem State.setA_mem (v : Byte) : (s.setA v).mem = s.mem := rfl
@[simp] theorem State.setA_external (v : Byte) : (s.setA v).external = s.external := rfl
@[simp] theorem State.setA_map (v : Byte) : (s.setA v).map = s.map := rfl
@[simp] theorem State.setA_timing (v : Byte) : (s.setA v).timing = s.timing := rfl
@[simp] theorem State.setX_pc (v : Byte) : (s.setX v).pc = s.pc := rfl
@[simp] theorem State.setX_sp (v : Byte) : (s.setX v).sp = s.sp := rfl
@[simp] theorem State.setX_a (v : Byte) : (s.setX v).a = s.a := rfl
@[simp] theorem State.setX_x (v : Byte) : (s.setX v).x = v := rfl
@[simp] theorem State.setX_y (v : Byte) : (s.setX v).y = s.y := rfl
@[simp] theorem State.setX_p (v : Byte) : (s.setX v).p = s.p := rfl
@[simp] theorem State.setX_cycles (v : Byte) : (s.setX v).cycles = s.cycles := rfl
@[simp] theorem State.setX_interrupt (v : Byte) : (s.setX v).interrupt = s.interrupt := rfl
@[simp] theorem State.setX_stall (v : Byte) : (s.setX v).stall = s.stall := rfl
@[simp] theorem State.setX_fault (v : Byte) : (s.setX v).fault = s.fault := rfl
@[simp] theorem State.setX_mem (v : Byte) : (s.setX v).mem = s.mem := rfl
@[simp] theorem State.setX_external (v : Byte) : (s.setX v).external = s.external := rfl
@[simp] theorem State.setX_map (v : Byte) : (s.setX v).map = s.map := rfl
@[simp] theorem State.setX_timing (v : Byte) : (s.setX v).timing = s.timing := rfl
@[simp] theorem State.setY_pc (v : Byte) : (s.setY v).pc = s.pc := rfl
@[simp] theorem State.setY_sp (v : Byte) : (s.setY v).sp = s.sp := rfl
@[simp] theorem State.setY_a (v : Byte) : (s.setY v).a = s.a := rfl
@[simp] theorem State.setY_x (v : Byte) : (s.setY v).x = s.x := rfl
@[simp] theorem State.setY_y (v : Byte) : (s.setY v).y = v := rfl
@[simp] theorem State.setY_p (v : Byte) : (s.setY v).p = s.p := rfl
@[simp] theorem State.setY_cycles (v : Byte) : (s.setY v).cycles = s.cycles := rfl
@[simp] theorem State.setY_interrupt (v : Byte) : (s.setY v).interrupt = s.interrupt := rfl
@[simp] theorem State.setY_stall (v : Byte) : (s.setY v).stall = s.stall := rfl
@[simp] theorem State.setY_fault (v : Byte) : (s.setY v).fault = s.fault := rfl
@[simp] theorem State.setY_mem (v : Byte) : (s.setY v).mem = s.mem := rfl
@[simp] theorem State.setY_external (v : Byte) : (s.setY v).external = s.external := rfl
@[simp] theorem State.setY_map (v : Byte) : (s.setY v).map = s.map := rfl
@[simp] theorem State.setY_timing (v : Byte) : (s.setY v).timing = s.timing := rfl
@[simp] theorem State.setP_pc (v : Byte) : (s.setP v).pc = s.pc := rfl
@[simp] theorem State.setP_sp (v : Byte) : (s.setP v).sp = s.sp := rfl
@[simp] theorem State.setP_a (v : Byte) : (s.setP v).a = s.a := rfl
@[simp] theorem State.setP_x (v : Byte) : (s.setP v).x = s.x := rfl
@[simp] theorem State.setP_y (v : Byte) : (s.setP v).y = s.y := rfl
@[simp] theorem State.setP_p (v : Byte) : (s.setP v).p = v := rfl
@[simp] theorem State.setP_cycles (v : Byte) : (s.setP v).cycles = s.cycles := rfl
@[simp] theorem State.setP_interrupt (v : Byte) : (s.setP v).interrupt = s.interrupt := rfl
@[simp] theorem State.setP_stall (v : Byte) : (s.setP v).stall = s.stall := rfl
@[simp] theorem State.setP_fault (v : Byte) : (s.setP v).fault = s.fault := rfl
@[simp] theorem State.setP_mem (v : Byte) : (s.setP v).mem = s.mem := rfl
@[simp] theorem State.setP_external (v : Byte) : (s.setP v).external = s.external := rfl
@[simp] theorem State.setP_map (v : Byte) : (s.setP v).map = s.map := rfl
@[simp] theorem State.setP_timing (v : Byte) : (s.setP v).timing = s.timing := rfl
@[simp] theorem State.addCycles_pc (v : Nat) : (s.addCycles v).pc = s.pc := rfl
@[simp] theorem State.addCycles_sp (v : Nat) : (s.addCycles v).sp = s.sp := rfl
@[simp] theorem State.addCycles_a (v : Nat) : (s.addCycles v).a = s.a := rfl
@[simp] theorem State.addCycles_x (v : Nat) : (s.addCycles v).x = s.x := rfl
@[simp] theorem State.addCycles_y (v : Nat) : (s.addCycles v).y = s.y := rfl
@[simp] theorem State.addCycles_p (v : Nat) : (s.addCycles v).p = s.p := rfl
@[simp] theorem State.addCycles_cycles (v : Nat) : (s.addCycles v).cycles = s.cycles + v := rfl
@[simp] theorem State.addCycles_interrupt (v : Nat) : (s.addCycles v).interrupt = s.interrupt := rfl
@[simp] theorem State.addCycles_stall (v : Nat) : (s.addCycles v).stall = s.stall := rfl
@[simp] theorem State.addCycles_fault (v : Nat) : (s.addCycles v).fault = s.fault := rfl
@[simp] theorem State.addCycles_mem (v : Nat) : (s.addCycles v).mem = s.mem := rfl
@[simp] theorem State.addCycles_external (v : Nat) : (s.addCycles v).external = s.external := rfl
@[simp] theorem State.addCycles_map (v : Nat) : (s.addCycles v).map = s.map := rfl
@[simp] theorem State.addCycles_timing (v : Nat) : (s.addCycles v).timing = s.timing := rfl
@[simp] theorem State.setInterrupt_pc (v : Interrupt) : (s.setInterrupt v).pc = s.pc := rfl
@[simp] theorem State.setInterrupt_sp (v : Interrupt) : (s.setInterrupt v).sp = s.sp := rfl
@[simp] theorem State.setInterrupt_a (v : Interrupt) : (s.setInterrupt v).a = s.a := rfl
@[simp] theorem State.setInterrupt_x (v : Interrupt) : (s.setInterrupt v).x = s.x := rfl
@[simp] theorem State.setInterrupt_y (v : Interrupt) : (s.setInterrupt v).y = s.y := rfl
@[simp] theorem State.setInterrupt_p (v : Interrupt) : (s.setInterrupt v).p = s.p := rfl
@[simp] theorem State.setInterrupt_cycles (v : Interrupt) : (s.setInterrupt v).cycles = s.cycles := rfl
@[simp] theorem State.setInterrupt_interrupt (v : Interrupt) : (s.setInterrupt v).interrupt = v := rfl
@[simp] theorem State.setInterrupt_stall (v : Interrupt) : (s.setInterrupt v).stall = s.stall := rfl
@[simp] theorem State.setInterrupt_fault (v : Interrupt) : (s.setInterrupt v).fault = s.fault := rfl
@[simp] theorem State.setInterrupt_mem (v : Interrupt) : (s.setInterrupt v).mem = s.mem := rfl
@[simp] theorem State.setInterrupt_external (v : Interrupt) : (s.setInterrupt v).external = s.external := rfl
@[simp] theorem State.setInterrupt_map (v : Interrupt) : (s.setInterrupt v).map = s.map := rfl
@[simp] theorem State.setInterrupt_timing (v : Interrupt) : (s.setInterrupt v).timing = s.timing := rfl
@[simp] theorem State.setStall_pc (v : Byte) : (s.setStall v).pc = s.pc := rfl
@[simp] theorem State.setStall_sp (v : Byte) : (s.setStall v).sp = s.sp := rfl
@[simp] theorem State.setStall_a (v : Byte) : (s.setStall v).a = s.a := rfl
@[simp] theorem State.setStall_x (v : Byte) : (s.setStall v).x = s.x := rfl
@[simp] theorem State.setStall_y (v : Byte) : (s.setStall v).y = s.y := rfl
@[simp] theorem State.setStall_p (v : Byte) : (s.setStall v).p = s.p := rfl
@[simp] theorem State.setStall_cycles (v : Byte) : (s.setStall v).cycles = s.cycles := rfl
@[simp] theorem State.setStall_interrupt (v : Byte) : (s.setStall v).interrupt = s.interrupt := rfl
@[simp] theorem State.setStall_stall (v : Byte) : (s.setStall v).stall = v := rfl
@[simp] theorem State.setStall_fault (v : Byte) : (s.setStall v).fault = s.fault := rfl
@[simp] theorem State.setStall_mem (v : Byte) : (s.setStall v).mem = s.mem := rfl
@[simp] theorem State.setStall_external (v : Byte) : (s.setStall v).external = s.external := rfl
@[simp] theorem State.setStall_map (v : Byte) : (s.setStall v).map = s.map := rfl
@[simp] theorem State.setStall_timing (v : Byte) : (s.setStall v).timing = s.timing := rfl
@[simp] theorem State.setFault_pc (v : Option Fault) : (s.setFault v).pc = s.pc := rfl
@[simp] theorem State.setFault_sp (v : Option Fault) : (s.setFault v).sp = s.sp := rfl
@[simp] theorem State.setFault_a (v : Option Fault) : (s.setFault v).a = s.a := rfl
@[simp] theorem State.setFault_x (v : Option Fault) : (s.setFault v).x = s.x := rfl
@[simp] theorem State.setFault_y (v : Option Fault) : (s.setFault v).y = s.y := rfl
@[simp] theorem State.setFault_p (v : Option Fault) : (s.setFault v).p = s.p := rfl
@[simp] theorem State.setFault_cycles (v : Option Fault) : (s.setFault v).cycles = s.cycles := rfl
@[simp] theorem State.setFault_interrupt (v : Option Fault) : (s.setFault v).interrupt = s.interrupt := rfl
@[simp] theorem State.setFault_stall (v : Option Fault) : (s.setFault v).stall = s.stall := rfl
@[simp] theorem State.setFault_fault (v : Option Fault) : (s.setFault v).fault = v := rfl
@[simp] theorem State.setFault_mem (v : Option Fault) : (s.setFault v).mem = s.mem := rfl
@[simp] theorem State.setFault_external (v : Option Fault) : (s.setFault v).external = s.external := rfl
@[simp] theorem State.setFault_map (v : Option Fault) : (s.setFault v).map = s.map := rfl
@[simp] theorem State.setFault_timing (v : Option Fault) : (s.setFault v).timing = s.timing := rfl
@[simp] theorem State.setMem_pc (v : Memory) : (s.setMem v).pc = s.pc := rfl
@[simp] theorem State.setMem_sp (v : Memory) : (s.setMem v).sp = s.sp := rfl
@[simp] theorem State.setMem_a (v : Memory) : (s.setMem v).a = s.a := rfl
@[simp] theorem State.setMem_x (v : Memory) : (s.setMem v).x = s.x := rfl
@[simp] theorem State.setMem_y (v : Memory) : (s.setMem v).y = s.y := rfl
@[simp] theorem State.setMem_p (v : Memory) : (s.setMem v).p = s.p := rfl
@[simp] theorem State.setMem_cycles (v : Memory) : (s.setMem v).cycles = s.cycles := rfl
@[simp] theorem State.setMem_interrupt (v : Memory) : (s.setMem v).interrupt = s.interrupt := rfl
@[simp] theorem State.setMem_stall (v : Memory) : (s.setMem v).stall = s.stall := rfl
@[simp] theorem State.setMem_fault (v : Memory) : (s.setMem v).fault = s.fault := rfl
@[simp] theorem State.setMem_mem (v : Memory) : (s.setMem v).mem = v := rfl
@[simp] theorem State.setMem_external (v : Memory) : (s.setMem v).external = s.external := rfl
@[simp] theorem State.setMem_map (v : Memory) : (s.setMem v).map = s.map := rfl
@[simp] theorem State.setMem_timing (v : Memory) : (s.setMem v).timing = s.timing := rfl
@[simp] theorem State.setExternal_pc (v : List Config.Access) : (s.setExternal v).pc = s.pc := rfl
@[simp] theorem State.setExternal_sp (v : List Config.Access) : (s.setExternal v).sp = s.sp := rfl
@[simp] theorem State.setExternal_a (v : List Config.Access) : (s.setExternal v).a = s.a := rfl
@[simp] theorem State.setExternal_x (v : List Config.Access) : (s.setExternal v).x = s.x := rfl
@[simp] theorem State.setExternal_y (v : List Config.Access) : (s.setExternal v).y = s.y := rfl
@[simp] theorem State.setExternal_p (v : List Config.Access) : (s.setExternal v).p = s.p := rfl
@[simp] theorem State.setExternal_cycles (v : List Config.Access) : (s.setExternal v).cycles = s.cycles := rfl
@[simp] theorem State.setExternal_interrupt (v : List Config.Access) : (s.setExternal v).interrupt = s.interrupt := rfl
@[simp] theorem State.setExternal_stall (v : List Config.Access) : (s.setExternal v).stall = s.stall := rfl
@[simp] theorem State.setExternal_fault (v : List Config.Access) : (s.setExternal v).fault = s.fault := rfl
@[simp] theorem State.setExternal_mem (v : List Config.Access) : (s.setExternal v).mem = s.mem := rfl
@[simp] theorem State.setExternal_external (v : List Config.Access) : (s.setExternal v).external = v := rfl
@[simp] theorem State.setExternal_map (v : List Config.Access) : (s.setExternal v).map = s.map := rfl
@[simp] theorem State.setExternal_timing (v : List Config.Access) : (s.setExternal v).timing = s.timing := rfl

@[simp] theorem State.setZN_eq (v : Byte) : s.setZN v = s.setP (Flags.setZN s.p v) := rfl

end

end Sys2Proof.Machine
end

