-- ==== Sys2Proof/Laws/Ops.lean ====
section
/-! SUPPORT. What each named operation of Machine/Ops.lean does, once (spec/20_memory.md, spec/40_engine_addressing.md). -/

namespace Sys2Proof.Machine

/-- A sequence of two computations completes when both do. -/
theorem bind_ok {α β : Type} {x : Except Fault α} {f : α → Except Fault β} {r : β} :
    (x >>= f) = .ok r ↔ ∃ a, x = .ok a ∧ f a = .ok r := by
  cases x <;> simp [bind, Except.bind]

/-- A sequence of two computations faults when the first does, or when the second does. -/
theorem bind_error {α β : Type} {x : Except Fault α} {f : α → Except Fault β} {e : Fault} :
    (x >>= f) = .error e ↔ x = .error e ∨ ∃ a, x = .ok a ∧ f a = .error e := by
  cases x <;> simp [bind, Except.bind]

/-! ### Loads -/

/-- What loads alone can do to a state: external regions have answered more accesses, and nothing else (R66). -/
def State.Reads (s t : State) : Prop := ∃ e, t = s.setExternal e

/-- What loads and stores alone can do to a state. -/
def State.Accesses (s t : State) : Prop := ∃ m e, t = (s.setMem m).setExternal e

theorem State.Reads.refl (s : State) : s.Reads s := ⟨s.external, rfl⟩

theorem State.Reads.trans {s t u : State} (h : s.Reads t) (h' : t.Reads u) : s.Reads u := by
  obtain ⟨e, rfl⟩ := h
  obtain ⟨e', rfl⟩ := h'
  exact ⟨e', rfl⟩

theorem State.Reads.accesses {s t : State} (h : s.Reads t) : s.Accesses t := by
  obtain ⟨e, rfl⟩ := h
  exact ⟨s.mem, e, rfl⟩

theorem State.Accesses.trans {s t u : State} (h : s.Accesses t) (h' : t.Accesses u) : s.Accesses u := by
  obtain ⟨m, e, rfl⟩ := h
  obtain ⟨m', e', rfl⟩ := h'
  exact ⟨m', e', rfl⟩

theorem State.loaded_eq (s : State) (a : Word) : s.loaded a = s.setExternal (s.loaded a).external := by
  unfold State.loaded
  split <;> rfl

@[simp] theorem State.loaded_pc (s : State) (a : Word) : (s.loaded a).pc = s.pc := by rw [State.loaded_eq]; rfl
@[simp] theorem State.loaded_sp (s : State) (a : Word) : (s.loaded a).sp = s.sp := by rw [State.loaded_eq]; rfl
@[simp] theorem State.loaded_a (s : State) (a : Word) : (s.loaded a).a = s.a := by rw [State.loaded_eq]; rfl
@[simp] theorem State.loaded_x (s : State) (a : Word) : (s.loaded a).x = s.x := by rw [State.loaded_eq]; rfl
@[simp] theorem State.loaded_y (s : State) (a : Word) : (s.loaded a).y = s.y := by rw [State.loaded_eq]; rfl
@[simp] theorem State.loaded_p (s : State) (a : Word) : (s.loaded a).p = s.p := by rw [State.loaded_eq]; rfl
@[simp] theorem State.loaded_cycles (s : State) (a : Word) : (s.loaded a).cycles = s.cycles := by rw [State.loaded_eq]; rfl
@[simp] theorem State.loaded_interrupt (s : State) (a : Word) : (s.loaded a).interrupt = s.interrupt := by rw [State.loaded_eq]; rfl
@[simp] theorem State.loaded_stall (s : State) (a : Word) : (s.loaded a).stall = s.stall := by rw [State.loaded_eq]; rfl
@[simp] theorem State.loaded_fault (s : State) (a : Word) : (s.loaded a).fault = s.fault := by rw [State.loaded_eq]; rfl
@[simp] theorem State.loaded_mem (s : State) (a : Word) : (s.loaded a).mem = s.mem := by rw [State.loaded_eq]; rfl
@[simp] theorem State.loaded_map (s : State) (a : Word) : (s.loaded a).map = s.map := by rw [State.loaded_eq]; rfl
@[simp] theorem State.loaded_timing (s : State) (a : Word) : (s.loaded a).timing = s.timing := by rw [State.loaded_eq]; rfl

theorem State.loaded_of_not_external {s : State} {a : Word} (h : Memory.placeOf s.map a ≠ .external) :
    s.loaded a = s := by
  unfold State.loaded
  split <;> simp_all

theorem State.load_of_cell {s : State} {a : Word} {c : Nat} (h : Memory.placeOf s.map a = .cell c) :
    s.load a = .ok (Memory.read s.mem c) := by simp [State.load, h]

/-- A load depends on the map, memory and the accesses external regions have answered, and outside external regions not
on these accesses. -/
theorem State.load_congr {s t : State} {a : Word} (hmap : t.map = s.map) (hmem : t.mem = s.mem)
    (hext : Memory.placeOf s.map a ≠ .external ∨ t.external = s.external) : t.load a = s.load a := by
  unfold State.load
  rw [hmap, hmem]
  split
  · rfl
  · rcases hext with h | h
    · simp_all
    · rw [h]
  · rfl

/-- The only fault of a load, and where it comes from (R69, R304). -/
theorem State.load_error {s : State} {a : Word} {f : Fault} (h : s.load a = .error f) :
    f = .unimplementedMemory a .read ∧
      (Memory.placeOf s.map a = .absent ∨
        (Memory.placeOf s.map a = .external ∧ Config.externalLoad s.external a = none)) := by
  unfold State.load at h
  split at h
  · cases h
  · split at h
    · cases h
    · cases h; exact ⟨rfl, .inr ⟨‹_›, ‹_›⟩⟩
  · cases h; exact ⟨rfl, .inl ‹_›⟩

/-- A read is a load and the state after it. -/
theorem State.read_ok {s t : State} {a : Word} {v : Byte} :
    s.read a = .ok (v, t) ↔ s.load a = .ok v ∧ t = s.loaded a := by
  unfold State.read
  cases s.load a <;> simp [bind, Except.bind, pure, Except.pure, eq_comm]

theorem State.read_error {s : State} {a : Word} {f : Fault} : s.read a = .error f ↔ s.load a = .error f := by
  unfold State.read
  cases s.load a <;> simp [bind, Except.bind, pure, Except.pure]

theorem State.read_of_cell {s : State} {a : Word} {c : Nat} (h : Memory.placeOf s.map a = .cell c) :
    s.read a = .ok (Memory.read s.mem c, s) := by
  rw [State.read_ok, State.load_of_cell h, State.loaded_of_not_external (by rw [h]; simp)]
  exact ⟨rfl, rfl⟩

theorem State.read_reads {s t : State} {a : Word} {v : Byte} (h : s.read a = .ok (v, t)) : s.Reads t := by
  rw [(State.read_ok.1 h).2, State.loaded_eq]
  exact ⟨_, rfl⟩

/-- Everything two reads that complete have done. -/
theorem State.readWord_ok {s t : State} {low high w : Word} (h : s.readWord low high = .ok (w, t)) :
    ∃ lo hi u, s.read low = .ok (lo, u) ∧ u.read high = .ok (hi, t) ∧ w = Bits.join hi lo := by
  obtain ⟨⟨lo, u⟩, hu, h⟩ := bind_ok.1 h
  obtain ⟨⟨hi, v⟩, hv, h⟩ := bind_ok.1 h
  cases h
  exact ⟨lo, hi, u, hu, hv, rfl⟩

theorem State.readWord_of_reads {s t u : State} {low high : Word} {lo hi : Byte} (h : s.read low = .ok (lo, u))
    (h' : u.read high = .ok (hi, t)) : s.readWord low high = .ok (Bits.join hi lo, t) := by
  simp only [State.readWord, h, h', bind, Except.bind, pure, Except.pure]

/-- A word that cannot be read: its low byte is refused, or else its high byte. -/
theorem State.readWord_error {s : State} {low high : Word} {f : Fault} :
    s.readWord low high = .error f ↔
      s.read low = .error f ∨ ∃ lo u, s.read low = .ok (lo, u) ∧ u.read high = .error f := by
  simp only [State.readWord, bind_error, Prod.exists]
  simp [pure, Except.pure]

theorem State.readWord_reads {s t : State} {low high w : Word} (h : s.readWord low high = .ok (w, t)) : s.Reads t := by
  obtain ⟨lo, hi, u, hu, hv, -⟩ := State.readWord_ok h
  exact (State.read_reads hu).trans (State.read_reads hv)

/-- Where memory cells answer, a word is its two bytes and the state stays. -/
theorem State.readWord_of_cells {s : State} {low high : Word} {c d : Nat} (h : Memory.placeOf s.map low = .cell c)
    (h' : Memory.placeOf s.map high = .cell d) :
    s.readWord low high = .ok (Bits.join (Memory.read s.mem d) (Memory.read s.mem c), s) :=
  State.readWord_of_reads (State.read_of_cell h) (State.read_of_cell h')

/-! ### Stores -/

/-- Everything a completed store can have done (R61, R68). -/
theorem State.store_ok {s t : State} {a : Word} {v : Byte} (h : s.store a v = .ok t) :
    (∃ c, Memory.storeEffect s.map a = .writes c ∧ t = s.setMem (Memory.write s.mem c v)) ∨
    (Memory.storeEffect s.map a = .dropped ∧ t = s) ∨
    (Memory.storeEffect s.map a = .external ∧ t = s.setExternal (.write a v :: s.external)) := by
  unfold State.store at h
  split at h
  · cases h; exact .inl ⟨_, ‹_›, rfl⟩
  · cases h; exact .inr (.inl ⟨‹_›, rfl⟩)
  · split at h
    · cases h; exact .inr (.inr ⟨‹_›, rfl⟩)
    · cases h
  · cases h

/-- The only fault of a store, and where it comes from (R69, R304). -/
theorem State.store_error {s : State} {a : Word} {v : Byte} {f : Fault} (h : s.store a v = .error f) :
    f = .unimplementedMemory a .write ∧
      (Memory.storeEffect s.map a = .refused ∨
        (Memory.placeOf s.map a = .external ∧ Config.externalStore s.external a v = false)) := by
  unfold State.store at h
  split at h
  · cases h
  · cases h
  · rename_i he
    split at h
    · cases h
    · rename_i hx
      cases h
      exact ⟨rfl, .inr ⟨Memory.storeEffect_external.1 he, Bool.eq_false_iff.2 hx⟩⟩
  · cases h; exact ⟨rfl, .inl ‹_›⟩

theorem State.store_of_writes {s : State} {a : Word} {v : Byte} {c : Nat}
    (h : Memory.storeEffect s.map a = .writes c) : s.store a v = .ok (s.setMem (Memory.write s.mem c v)) := by
  simp [State.store, h]

theorem State.store_accesses {s t : State} {a : Word} {v : Byte} (h : s.store a v = .ok t) : s.Accesses t := by
  rcases State.store_ok h with ⟨c, -, rfl⟩ | ⟨-, rfl⟩ | ⟨-, rfl⟩
  · exact ⟨Memory.write s.mem c v, s.external, rfl⟩
  · exact ⟨t.mem, t.external, rfl⟩
  · exact ⟨s.mem, _, rfl⟩

/-- A completed store leaves the byte of every other place. -/
theorem State.store_frame {s t : State} {a b : Word} {v : Byte} (h : s.store a v = .ok t)
    (hb : Memory.placeOf s.map b ≠ Memory.placeOf s.map a) (he : Memory.placeOf s.map b ≠ .external) :
    t.load b = s.load b := by
  rcases State.store_ok h with ⟨c, hc, rfl⟩ | ⟨-, rfl⟩ | ⟨-, rfl⟩
  · rw [Memory.storeEffect_writes hc] at hb
    unfold State.load
    simp only [State.setMem_map, State.setMem_mem, State.setMem_external]
    split
    · rename_i d hd
      rw [Memory.read_write_other]
      rintro rfl
      exact hb hd
    · exact absurd ‹_› he
    · rfl
  · rfl
  · exact State.load_congr rfl rfl (.inl he)

/-! ### Accesses of a state that differs in registers -/

/-- A change of state that the port does not see: the map, memory and the accesses of external regions stay, and it
commutes with a change of these. -/
structure Inert (g : State → State) : Prop where
  map : ∀ s, (g s).map = s.map
  mem : ∀ s, (g s).mem = s.mem
  external : ∀ s, (g s).external = s.external
  setMem : ∀ s m, g (s.setMem m) = (g s).setMem m
  setExternal : ∀ s e, g (s.setExternal e) = (g s).setExternal e

section
variable {g : State → State} (h : Inert g)
include h

theorem Inert.load (s : State) (a : Word) : (g s).load a = s.load a :=
  State.load_congr (h.map s) (h.mem s) (.inr (h.external s))

theorem Inert.read (s : State) (a : Word) : (g s).read a = (s.read a).map (fun r => (r.1, g r.2)) := by
  have hl : (g s).loaded a = g (s.loaded a) := by
    simp only [State.loaded, h.map, h.external]
    split
    · exact (h.setExternal s _).symm
    all_goals rfl
  simp only [State.read, h.load, hl]
  cases s.load a <;> rfl

theorem Inert.readWord (s : State) (low high : Word) :
    (g s).readWord low high = (s.readWord low high).map (fun r => (r.1, g r.2)) := by
  unfold State.readWord
  rw [h.read]
  cases s.read low with
  | error f => rfl
  | ok r =>
    simp only [Except.map, bind, Except.bind, h.read]
    cases r.2.read high <;> rfl

theorem Inert.store (s : State) (a : Word) (v : Byte) : (g s).store a v = (s.store a v).map g := by
  simp only [State.store, h.map, h.mem, h.external]
  split
  · rw [← h.setMem]; rfl
  · rfl
  · split
    · rw [← h.setExternal]; rfl
    · rfl
  · rfl

end

theorem inert_setPC (v : Word) : Inert (fun s => s.setPC v) :=
  ⟨fun _ => rfl, fun _ => rfl, fun _ => rfl, fun _ _ => rfl, fun _ _ => rfl⟩
theorem inert_setSP (v : Byte) : Inert (fun s => s.setSP v) :=
  ⟨fun _ => rfl, fun _ => rfl, fun _ => rfl, fun _ _ => rfl, fun _ _ => rfl⟩
theorem inert_setA (v : Byte) : Inert (fun s => s.setA v) :=
  ⟨fun _ => rfl, fun _ => rfl, fun _ => rfl, fun _ _ => rfl, fun _ _ => rfl⟩
theorem inert_setX (v : Byte) : Inert (fun s => s.setX v) :=
  ⟨fun _ => rfl, fun _ => rfl, fun _ => rfl, fun _ _ => rfl, fun _ _ => rfl⟩
theorem inert_setY (v : Byte) : Inert (fun s => s.setY v) :=
  ⟨fun _ => rfl, fun _ => rfl, fun _ => rfl, fun _ _ => rfl, fun _ _ => rfl⟩
theorem inert_setP (v : Byte) : Inert (fun s => s.setP v) :=
  ⟨fun _ => rfl, fun _ => rfl, fun _ => rfl, fun _ _ => rfl, fun _ _ => rfl⟩
theorem inert_addCycles (v : Nat) : Inert (fun s => s.addCycles v) :=
  ⟨fun _ => rfl, fun _ => rfl, fun _ => rfl, fun _ _ => rfl, fun _ _ => rfl⟩
theorem inert_setInterrupt (v : Interrupt) : Inert (fun s => s.setInterrupt v) :=
  ⟨fun _ => rfl, fun _ => rfl, fun _ => rfl, fun _ _ => rfl, fun _ _ => rfl⟩
theorem inert_setStall (v : Byte) : Inert (fun s => s.setStall v) :=
  ⟨fun _ => rfl, fun _ => rfl, fun _ => rfl, fun _ _ => rfl, fun _ _ => rfl⟩
theorem inert_setFault (v : Option Fault) : Inert (fun s => s.setFault v) :=
  ⟨fun _ => rfl, fun _ => rfl, fun _ => rfl, fun _ _ => rfl, fun _ _ => rfl⟩

theorem Inert.comp {g k : State → State} (h : Inert g) (h' : Inert k) : Inert (fun s => g (k s)) where
  map s := (h.map _).trans (h'.map s)
  mem s := (h.mem _).trans (h'.mem s)
  external s := (h.external _).trans (h'.external s)
  setMem s m := by rw [h'.setMem, h.setMem]
  setExternal s e := by rw [h'.setExternal, h.setExternal]

/-! ### The stack -/

/-- The number of a stack address: page 1 (R24). -/
@[simp] theorem stackAddress_toNat (sp : Byte) : (stackAddress sp).toNat = 256 + sp.toNat := by
  have := sp.isLt
  simp [stackAddress, Bits.zext16, BitVec.toNat_add]
  omega

theorem stackAddress_lt (sp : Byte) : (stackAddress sp).toNat < 0x0800 := by
  have := sp.isLt
  rw [stackAddress_toNat]; omega

theorem State.push_of_store {s t : State} {v : Byte} (h : s.store (stackAddress s.sp) v = .ok t) :
    s.push v = .ok (t.setSP (s.sp - 1#8)) := by
  simp only [State.push, h, bind, Except.bind, pure, Except.pure]

/-- Everything a push that completes has done (R136). -/
theorem State.push_ok {s t : State} {v : Byte} (h : s.push v = .ok t) :
    ∃ u, s.store (stackAddress s.sp) v = .ok u ∧ t = u.setSP (s.sp - 1#8) := by
  obtain ⟨u, hu, h⟩ := bind_ok.1 h
  cases h
  exact ⟨u, hu, rfl⟩

/-- A push faults exactly when its store does. -/
theorem State.push_error {s : State} {v : Byte} {f : Fault} :
    s.push v = .error f ↔ s.store (stackAddress s.sp) v = .error f := by
  simp only [State.push, bind_error]
  simp [pure, Except.pure]

theorem State.pop_of_read {s t : State} {v : Byte} (h : s.read (stackAddress (s.sp + 1#8)) = .ok (v, t)) :
    s.pop = .ok (v, t.setSP (s.sp + 1#8)) := by
  simp only [State.pop, h, bind, Except.bind, pure, Except.pure]

/-- Everything a pop that completes has done (R137). -/
theorem State.pop_ok {s t : State} {v : Byte} (h : s.pop = .ok (v, t)) :
    ∃ u, s.read (stackAddress (s.sp + 1#8)) = .ok (v, u) ∧ t = u.setSP (s.sp + 1#8) := by
  obtain ⟨⟨w, u⟩, hu, h⟩ := bind_ok.1 h
  cases h
  exact ⟨u, hu, rfl⟩

/-- A pop faults exactly when its read does. -/
theorem State.pop_error {s : State} {f : Fault} :
    s.pop = .error f ↔ s.read (stackAddress (s.sp + 1#8)) = .error f := by
  simp only [State.pop, bind_error]
  simp [pure, Except.pure]

theorem Byte.sub_one_one (v : Byte) : v - 1#8 - 1#8 = v - 2#8 := by
  rw [BitVec.sub_sub]; rfl

theorem Byte.add_one_one (v : Byte) : v + 1#8 + 1#8 = v + 2#8 := by
  rw [BitVec.add_assoc]; rfl

theorem Byte.sub_two_one (v : Byte) : v - 2#8 - 1#8 = v - 3#8 := by
  rw [BitVec.sub_sub]; rfl

theorem Byte.add_two_one (v : Byte) : v + 2#8 + 1#8 = v + 3#8 := by
  rw [BitVec.add_assoc]; rfl

theorem State.setSP_store {s : State} {sp : Byte} {a : Word} {v : Byte} :
    (s.setSP sp).store a v = (s.store a v).map (fun r => r.setSP sp) := (inert_setSP sp).store s a v

theorem State.setSP_read {s : State} {sp : Byte} {a : Word} :
    (s.setSP sp).read a = (s.read a).map (fun r => (r.1, r.2.setSP sp)) := (inert_setSP sp).read s a

/-- `Push16` is two stores, the high byte first, and then SP is two lower (R138). -/
theorem State.push16_of_stores {s t u : State} {w : Word} (h : s.store (stackAddress s.sp) (Bits.hiByte w) = .ok t)
    (h' : t.store (stackAddress (s.sp - 1#8)) (Bits.loByte w) = .ok u) : s.push16 w = .ok (u.setSP (s.sp - 2#8)) := by
  have hp : (t.setSP (s.sp - 1#8)).push (Bits.loByte w) = .ok (u.setSP (s.sp - 2#8)) := by
    refine (State.push_of_store (t := u.setSP (s.sp - 1#8)) ?_).trans ?_
    · rw [State.setSP_store]; simp [h', Except.map]
    · rw [State.setSP_sp, Byte.sub_one_one]; rfl
  simp only [State.push16, State.push_of_store h, bind, Except.bind, hp]

/-- Everything a `Push16` that completes has done (R138). -/
theorem State.push16_ok {s v : State} {w : Word} (h : s.push16 w = .ok v) :
    ∃ t u, s.store (stackAddress s.sp) (Bits.hiByte w) = .ok t ∧
      t.store (stackAddress (s.sp - 1#8)) (Bits.loByte w) = .ok u ∧ v = u.setSP (s.sp - 2#8) := by
  obtain ⟨_, hp, h⟩ := bind_ok.1 h
  obtain ⟨t, ht, rfl⟩ := State.push_ok hp
  obtain ⟨u', hu, rfl⟩ := State.push_ok h
  rw [State.setSP_store] at hu
  cases hs : t.store (stackAddress (s.sp - 1#8)) (Bits.loByte w) with
  | error f => simp [hs, Except.map] at hu
  | ok u =>
    simp only [State.setSP_sp, hs, Except.map, Except.ok.injEq] at hu
    refine ⟨t, u, ht, hs, ?_⟩
    rw [← hu, State.setSP_sp, Byte.sub_one_one]
    rfl

/-- `Push16` faults at its first refused store. -/
theorem State.push16_error {s : State} {w : Word} {f : Fault} :
    s.push16 w = .error f ↔ s.store (stackAddress s.sp) (Bits.hiByte w) = .error f ∨
      ∃ t, s.store (stackAddress s.sp) (Bits.hiByte w) = .ok t ∧
        t.store (stackAddress (s.sp - 1#8)) (Bits.loByte w) = .error f := by
  have hx (t : State) : ((t.setSP (s.sp - 1#8)).store (stackAddress (s.sp - 1#8)) (Bits.loByte w)).map id = .error f ↔
      t.store (stackAddress (s.sp - 1#8)) (Bits.loByte w) = .error f := by
    rw [State.setSP_store]
    cases t.store (stackAddress (s.sp - 1#8)) (Bits.loByte w) <;> simp [Except.map]
  simp only [State.push16, bind_error, State.push_error]
  refine or_congr_right ⟨?_, ?_⟩
  · rintro ⟨_, hp, h⟩
    obtain ⟨t, ht, rfl⟩ := State.push_ok hp
    exact ⟨t, ht, (hx t).1 (by rw [State.setSP_sp] at h; rw [h]; rfl)⟩
  · rintro ⟨t, ht, h⟩
    refine ⟨_, State.push_of_store ht, ?_⟩
    rw [State.setSP_sp, State.setSP_store, h]
    rfl

/-- `Pop16` is two reads, the low byte first, and then SP is two higher (R138). -/
theorem State.pop16_of_reads {s t u : State} {lo hi : Byte} (h : s.read (stackAddress (s.sp + 1#8)) = .ok (lo, t))
    (h' : t.read (stackAddress (s.sp + 2#8)) = .ok (hi, u)) :
    s.pop16 = .ok (Bits.join hi lo, u.setSP (s.sp + 2#8)) := by
  have hp : (t.setSP (s.sp + 1#8)).pop = .ok (hi, u.setSP (s.sp + 2#8)) := by
    refine (State.pop_of_read (v := hi) (t := u.setSP (s.sp + 1#8)) ?_).trans ?_
    · rw [State.setSP_read, State.setSP_sp, Byte.add_one_one, h']; rfl
    · rw [State.setSP_sp, Byte.add_one_one]; rfl
  simp only [State.pop16, State.pop_of_read h, bind, Except.bind, hp, pure, Except.pure]

/-- Everything a `Pop16` that completes has done (R138). -/
theorem State.pop16_ok {s v : State} {w : Word} (h : s.pop16 = .ok (w, v)) :
    ∃ lo hi t u, s.read (stackAddress (s.sp + 1#8)) = .ok (lo, t) ∧
      t.read (stackAddress (s.sp + 2#8)) = .ok (hi, u) ∧ w = Bits.join hi lo ∧ v = u.setSP (s.sp + 2#8) := by
  obtain ⟨⟨lo, _⟩, hp, h⟩ := bind_ok.1 h
  obtain ⟨t, ht, rfl⟩ := State.pop_ok hp
  obtain ⟨⟨hi, _⟩, hq, h⟩ := bind_ok.1 h
  obtain ⟨u, hu, rfl⟩ := State.pop_ok hq
  cases h
  rw [State.setSP_read, State.setSP_sp, Byte.add_one_one] at hu
  cases hs : t.read (stackAddress (s.sp + 2#8)) with
  | error f => simp [hs, Except.map] at hu
  | ok r =>
    simp only [hs, Except.map, Except.ok.injEq, Prod.mk.injEq] at hu
    obtain ⟨rfl, rfl⟩ := hu
    refine ⟨lo, r.1, t, r.2, ht, hs, rfl, ?_⟩
    rw [State.setSP_sp, Byte.add_one_one]
    rfl

/-- `Pop16` faults at its first refused read. -/
theorem State.pop16_error {s : State} {f : Fault} :
    s.pop16 = .error f ↔ s.read (stackAddress (s.sp + 1#8)) = .error f ∨
      ∃ lo t, s.read (stackAddress (s.sp + 1#8)) = .ok (lo, t) ∧ t.read (stackAddress (s.sp + 2#8)) = .error f := by
  have hx (t : State) : ((t.setSP (s.sp + 1#8)).read (stackAddress (s.sp + 2#8))) = .error f ↔
      t.read (stackAddress (s.sp + 2#8)) = .error f := by
    rw [State.setSP_read]
    cases t.read (stackAddress (s.sp + 2#8)) <;> simp [Except.map]
  simp only [State.pop16, bind_error, State.pop_error, Prod.exists]
  refine or_congr_right ⟨?_, ?_⟩
  · rintro ⟨lo, _, hp, h⟩
    obtain ⟨t, ht, rfl⟩ := State.pop_ok hp
    rcases h with h | ⟨hi, u, -, h⟩
    · rw [State.setSP_sp, Byte.add_one_one] at h
      exact ⟨lo, t, ht, (hx t).1 h⟩
    · cases h
  · rintro ⟨lo, t, ht, h⟩
    refine ⟨lo, _, State.pop_of_read ht, .inl ?_⟩
    rw [State.setSP_sp, Byte.add_one_one]
    exact (hx t).2 h

/-! ### Entry and return -/

/-- BRK and interrupt entry complete when the port takes the three pushes and answers the vector (R260, R310). -/
theorem State.enter_of_accesses {s t u v w : State} {ret target vec : Word} {pushed : Byte}
    (h1 : s.store (stackAddress s.sp) (Bits.hiByte ret) = .ok t)
    (h2 : t.store (stackAddress (s.sp - 1#8)) (Bits.loByte ret) = .ok u)
    (h3 : u.store (stackAddress (s.sp - 2#8)) pushed = .ok v) (h4 : v.read16 vec = .ok (target, w)) :
    s.enter ret pushed vec =
      .ok (((w.setSP (s.sp - 3#8)).setP (Flags.put s.p Flags.iBit true)).setPC target) := by
  have hp : (u.setSP (s.sp - 2#8)).push pushed = .ok (v.setSP (s.sp - 3#8)) := by
    refine (State.push_of_store (t := v.setSP (s.sp - 2#8)) ?_).trans ?_
    · rw [State.setSP_store, State.setSP_sp, h3]; rfl
    · rw [State.setSP_sp, Byte.sub_two_one]; rfl
  have hv : v.p = s.p := by
    obtain ⟨_, _, rfl⟩ := ((State.store_accesses h1).trans (State.store_accesses h2)).trans (State.store_accesses h3)
    rfl
  obtain ⟨e, rfl⟩ := State.readWord_reads h4
  have hr : ((v.setSP (s.sp - 3#8)).setP (Flags.put (v.setSP (s.sp - 3#8)).p Flags.iBit true)).read16 vec =
      .ok (target, ((v.setSP (s.sp - 3#8)).setP (Flags.put (v.setSP (s.sp - 3#8)).p Flags.iBit true)).setExternal e) := by
    refine (((inert_setP _).comp (inert_setSP (s.sp - 3#8))).readWord v vec (vec + 1#16)).trans ?_
    rw [← State.read16, h4]
    rfl
  simp only [State.enter, State.push16_of_stores h1 h2, hp, hr, bind, Except.bind, pure, Except.pure]
  rw [State.setSP_p, hv]
  rfl

/-- Everything an entry that completes has done (R260, R310). -/
theorem State.enter_ok {s z : State} {ret vec : Word} {pushed : Byte} (h : s.enter ret pushed vec = .ok z) :
    ∃ t u v w target, s.store (stackAddress s.sp) (Bits.hiByte ret) = .ok t ∧
      t.store (stackAddress (s.sp - 1#8)) (Bits.loByte ret) = .ok u ∧
      u.store (stackAddress (s.sp - 2#8)) pushed = .ok v ∧ v.read16 vec = .ok (target, w) ∧
      z = ((w.setSP (s.sp - 3#8)).setP (Flags.put s.p Flags.iBit true)).setPC target := by
  have hz := h
  obtain ⟨t', ht, h⟩ := bind_ok.1 h
  obtain ⟨t, u, h1, h2, rfl⟩ := State.push16_ok ht
  obtain ⟨v', hv, h⟩ := bind_ok.1 h
  obtain ⟨v'', h3, rfl⟩ := State.push_ok hv
  obtain ⟨⟨target, w'⟩, h4, h⟩ := bind_ok.1 h
  rw [State.setSP_store, State.setSP_sp] at h3
  cases h3' : u.store (stackAddress (s.sp - 2#8)) pushed with
  | error f => simp [h3', Except.map] at h3
  | ok v =>
    simp only [h3', Except.map, Except.ok.injEq] at h3
    subst h3
    have hr := (((inert_setP (Flags.put v.p Flags.iBit true)).comp (inert_setSP (s.sp - 2#8 - 1#8))).readWord v vec
      (vec + 1#16)).symm.trans h4
    rw [← State.read16] at hr
    cases h4' : v.read16 vec with
    | error f => simp [h4', Except.map] at hr
    | ok r =>
      rw [State.enter_of_accesses h1 h2 h3' h4'] at hz
      cases hz
      exact ⟨t, u, v, r.2, r.1, h1, h2, h3', h4', rfl⟩

/-- An entry faults at the first access that the port refuses: the three pushes, then the vector (R304, R310). -/
theorem State.enter_error {s : State} {ret vec : Word} {pushed : Byte} {f : Fault} :
    s.enter ret pushed vec = .error f ↔
      s.store (stackAddress s.sp) (Bits.hiByte ret) = .error f ∨
      ∃ t, s.store (stackAddress s.sp) (Bits.hiByte ret) = .ok t ∧
        (t.store (stackAddress (s.sp - 1#8)) (Bits.loByte ret) = .error f ∨
        ∃ u, t.store (stackAddress (s.sp - 1#8)) (Bits.loByte ret) = .ok u ∧
          (u.store (stackAddress (s.sp - 2#8)) pushed = .error f ∨
          ∃ v, u.store (stackAddress (s.sp - 2#8)) pushed = .ok v ∧ v.read16 vec = .error f)) := by
  cases h1 : s.store (stackAddress s.sp) (Bits.hiByte ret) with
  | error f' =>
    have : s.enter ret pushed vec = .error f' := by
      simp only [State.enter, State.push16_error.2 (.inl h1), bind, Except.bind]
    simp [this]
  | ok t =>
    cases h2 : t.store (stackAddress (s.sp - 1#8)) (Bits.loByte ret) with
    | error f' =>
      have : s.enter ret pushed vec = .error f' := by
        simp only [State.enter, State.push16_error.2 (.inr ⟨t, h1, h2⟩), bind, Except.bind]
      simp [this, h2]
    | ok u =>
      cases h3 : u.store (stackAddress (s.sp - 2#8)) pushed with
      | error f' =>
        have hp : (u.setSP (s.sp - 2#8)).push pushed = .error f' := by
          rw [State.push_error, State.setSP_sp, State.setSP_store, h3]; rfl
        have : s.enter ret pushed vec = .error f' := by
          simp only [State.enter, State.push16_of_stores h1 h2, hp, bind, Except.bind]
        simp [this, h2, h3]
      | ok v =>
        cases h4 : v.read16 vec with
        | ok r => simp [State.enter_of_accesses h1 h2 h3 h4, h2, h3, h4]
        | error f' =>
          have hp : (u.setSP (s.sp - 2#8)).push pushed = .ok (v.setSP (s.sp - 3#8)) := by
            refine (State.push_of_store (t := v.setSP (s.sp - 2#8)) ?_).trans ?_
            · rw [State.setSP_store, State.setSP_sp, h3]; rfl
            · rw [State.setSP_sp, Byte.sub_two_one]; rfl
          have hr : ((v.setSP (s.sp - 3#8)).setP (Flags.put (v.setSP (s.sp - 3#8)).p Flags.iBit true)).read16 vec =
              .error f' := by
            refine (((inert_setP _).comp (inert_setSP (s.sp - 3#8))).readWord v vec (vec + 1#16)).trans ?_
            rw [← State.read16, h4]
            rfl
          have : s.enter ret pushed vec = .error f' := by
            simp only [State.enter, State.push16_of_stores h1 h2, hp, hr, bind, Except.bind]
          simp [this, h2, h3, h4]

/-- RTI completes when the port answers the three pops (R261). -/
theorem State.leave_of_reads {s t u v : State} {p lo hi : Byte} (h1 : s.read (stackAddress (s.sp + 1#8)) = .ok (p, t))
    (h2 : t.read (stackAddress (s.sp + 2#8)) = .ok (lo, u)) (h3 : u.read (stackAddress (s.sp + 3#8)) = .ok (hi, v)) :
    s.leave = .ok (((v.setSP (s.sp + 3#8)).setP (Flags.pulled p)).setPC (Bits.join hi lo)) := by
  have e2 : s.sp + 1#8 + 2#8 = s.sp + 3#8 := by rw [BitVec.add_assoc]; rfl
  obtain ⟨e', rfl⟩ := State.read_reads h2
  obtain ⟨e'', rfl⟩ := State.read_reads h3
  have hp : ((t.setSP (s.sp + 1#8)).setP (Flags.pulled p)).pop16 =
      .ok (Bits.join hi lo, (((t.setExternal e'').setSP (s.sp + 3#8)).setP (Flags.pulled p))) := by
    refine (State.pop16_of_reads (t := ((t.setSP (s.sp + 1#8)).setP (Flags.pulled p)).setExternal e')
      (u := ((t.setSP (s.sp + 1#8)).setP (Flags.pulled p)).setExternal e'') (lo := lo) (hi := hi) ?_ ?_).trans ?_
    · rw [State.setP_sp, State.setSP_sp, Byte.add_one_one]
      refine (((inert_setP (Flags.pulled p)).comp (inert_setSP (s.sp + 1#8))).read t _).trans ?_
      rw [h2]
      rfl
    · rw [State.setP_sp, State.setSP_sp, e2]
      refine (((inert_setP (Flags.pulled p)).comp (inert_setSP (s.sp + 1#8))).read (t.setExternal e') _).trans ?_
      rw [h3]
      rfl
    · rw [State.setP_sp, State.setSP_sp, e2]; rfl
  simp only [State.leave, State.pop_of_read h1, hp, bind, Except.bind, pure, Except.pure]
  rfl

/-- Everything a return that completes has done (R261). -/
theorem State.leave_ok {s z : State} (h : s.leave = .ok z) :
    ∃ p lo hi t u v, s.read (stackAddress (s.sp + 1#8)) = .ok (p, t) ∧
      t.read (stackAddress (s.sp + 2#8)) = .ok (lo, u) ∧ u.read (stackAddress (s.sp + 3#8)) = .ok (hi, v) ∧
      z = ((v.setSP (s.sp + 3#8)).setP (Flags.pulled p)).setPC (Bits.join hi lo) := by
  have hz := h
  have e2 : s.sp + 1#8 + 2#8 = s.sp + 3#8 := by rw [BitVec.add_assoc]; rfl
  obtain ⟨⟨p, _⟩, hp, h⟩ := bind_ok.1 h
  obtain ⟨t, h1, rfl⟩ := State.pop_ok hp
  obtain ⟨⟨w, _⟩, hq, h⟩ := bind_ok.1 h
  obtain ⟨lo, hi, u', v', h2, h3, -, rfl⟩ := State.pop16_ok hq
  rw [State.setP_sp, State.setSP_sp] at h2 h3
  rw [Byte.add_one_one] at h2
  rw [e2] at h3
  have r2 := (((inert_setP (Flags.pulled p)).comp (inert_setSP (s.sp + 1#8))).read t _).symm.trans h2
  cases h2' : t.read (stackAddress (s.sp + 2#8)) with
  | error f => simp [h2', Except.map] at r2
  | ok r =>
    simp only [h2', Except.map, Except.ok.injEq, Prod.mk.injEq] at r2
    obtain ⟨rfl, rfl⟩ := r2
    have r3 := (((inert_setP (Flags.pulled p)).comp (inert_setSP (s.sp + 1#8))).read r.2 _).symm.trans h3
    cases h3' : r.2.read (stackAddress (s.sp + 3#8)) with
    | error f => simp [h3', Except.map] at r3
    | ok q =>
      rw [State.leave_of_reads h1 h2' h3'] at hz
      cases hz
      exact ⟨p, r.1, q.1, t, r.2, q.2, h1, h2', h3', rfl⟩

/-- A return faults at the first pop that the port refuses (R304, R261). -/
theorem State.leave_error {s : State} {f : Fault} :
    s.leave = .error f ↔
      s.read (stackAddress (s.sp + 1#8)) = .error f ∨
      ∃ p t, s.read (stackAddress (s.sp + 1#8)) = .ok (p, t) ∧
        (t.read (stackAddress (s.sp + 2#8)) = .error f ∨
        ∃ lo u, t.read (stackAddress (s.sp + 2#8)) = .ok (lo, u) ∧ u.read (stackAddress (s.sp + 3#8)) = .error f) := by
  cases h1 : s.read (stackAddress (s.sp + 1#8)) with
  | error f' =>
    have : s.leave = .error f' := by simp only [State.leave, State.pop_error.2 h1, bind, Except.bind]
    simp [this]
  | ok r =>
    have hr := ((inert_setP (Flags.pulled r.1)).comp (inert_setSP (s.sp + 1#8))).read r.2 (stackAddress (s.sp + 2#8))
    cases h2 : r.2.read (stackAddress (s.sp + 2#8)) with
    | error f' =>
      have hp : ((r.2.setSP (s.sp + 1#8)).setP (Flags.pulled r.1)).pop16 = .error f' := by
        refine bind_error.2 (.inl (State.pop_error.2 ?_))
        rw [State.setP_sp, State.setSP_sp, Byte.add_one_one]
        exact hr.trans (by rw [h2]; rfl)
      have : s.leave = .error f' := by
        simp only [State.leave, State.pop_of_read h1, hp, bind, Except.bind]
      rw [this]
      constructor
      · intro h; cases h; exact .inr ⟨r.1, r.2, rfl, .inl h2⟩
      · rintro (h | ⟨p, t, h, h' | ⟨lo, u, h', -⟩⟩)
        · cases h
        · cases h; rw [h2] at h'; cases h'; rfl
        · cases h; rw [h2] at h'; cases h'
    | ok q =>
      cases h3 : q.2.read (stackAddress (s.sp + 3#8)) with
      | ok y =>
        rw [State.leave_of_reads h1 h2 h3]
        constructor
        · intro h; cases h
        · rintro (h | ⟨p, t, h, h' | ⟨lo, u, h', h''⟩⟩)
          · cases h
          · cases h; rw [h2] at h'; cases h'
          · cases h; rw [h2] at h'; cases h'; rw [h3] at h''; cases h''
      | error f' =>
        have hp : ((r.2.setSP (s.sp + 1#8)).setP (Flags.pulled r.1)).pop16 = .error f' := by
          refine bind_error.2 (.inr ⟨(q.1, ((q.2.setSP (s.sp + 1#8)).setP (Flags.pulled r.1)).setSP (s.sp + 2#8)), ?_, ?_⟩)
          · refine (State.pop_of_read (v := q.1) (t := (q.2.setSP (s.sp + 1#8)).setP (Flags.pulled r.1)) ?_).trans ?_
            · rw [State.setP_sp, State.setSP_sp, Byte.add_one_one]
              exact hr.trans (by rw [h2]; rfl)
            · rw [State.setP_sp, State.setSP_sp, Byte.add_one_one]
          · refine bind_error.2 (.inl (State.pop_error.2 ?_))
            rw [State.setSP_sp, Byte.add_two_one]
            refine ((((inert_setSP (s.sp + 2#8)).comp (inert_setP (Flags.pulled r.1))).comp
              (inert_setSP (s.sp + 1#8))).read q.2 _).trans ?_
            rw [h3]
            rfl
        have : s.leave = .error f' := by
          simp only [State.leave, State.pop_of_read h1, hp, bind, Except.bind]
        rw [this]
        constructor
        · intro h; cases h; exact .inr ⟨r.1, r.2, rfl, .inr ⟨q.1, q.2, h2, h3⟩⟩
        · rintro (h | ⟨p, t, h, h' | ⟨lo, u, h', h''⟩⟩)
          · cases h
          · cases h; rw [h2] at h'; cases h'
          · cases h; rw [h2] at h'; cases h'; rw [h3] at h''; cases h''; rfl

/-- The named-bit write for an index of the status byte (R35). -/
theorem State.setBit_eq (s : State) {index : Nat} (v : Bool) (h : index ≤ 7) :
    s.setBit index v = .ok (s.setP (Flags.put s.p index v)) := by
  have : ¬ 7 < index := by omega
  simp [State.setBit, this]

end Sys2Proof.Machine
end

