-- ==== Sys2Proof/Laws/Operands.lean ====
section
/-! SUPPORT. What the addressing-mode selector and the access to an operand do, once (spec/40_engine_addressing.md). -/

namespace Sys2Proof.Machine

/-- Everything a zero-page pointer read that completes has done, the low byte first (R149, R150). -/
theorem State.readPointer_ok {s t : State} {p : Byte} {w : Word} (h : s.readPointer p = .ok (w, t)) :
    ∃ lo hi u, s.read (Bits.zext16 p) = .ok (lo, u) ∧ u.read (Bits.zext16 (p + 1#8)) = .ok (hi, t) ∧
      w = Bits.join hi lo := State.readWord_ok h

/-- The two modes whose operand's address is read from memory. -/
def isIndirect (am : AddressingMode) : Bool :=
  match am with
  | .indexedIndirect _ | .indirectIndexed _ => true
  | _ => false

/-- Finding an operand reads pointer bytes and does nothing else. -/
theorem locate_reads {am : AddressingMode} {s t : State} {l : Located} (h : locate am s = .ok (l, t)) : s.Reads t := by
  cases am with
  | indexedIndirect b | indirectIndexed b =>
    obtain ⟨⟨w, u⟩, hu, h⟩ := bind_ok.1 h
    cases h
    exact State.readWord_reads hu
  | _ => cases h; exact State.Reads.refl s

/-- Only a pointer read can keep an operand from being found. -/
theorem locate_error {am : AddressingMode} {s : State} {f : Fault} (h : locate am s = .error f) :
    ∃ p, s.readPointer p = .error f := by
  cases am with
  | indexedIndirect b | indirectIndexed b =>
    rcases bind_error.1 h with h | ⟨⟨w, u⟩, -, h⟩
    · exact ⟨_, h⟩
    · cases h
  | _ => cases h

/-- Outside the two indirect modes the operand is found without an access. -/
theorem locate_direct {am : AddressingMode} (h : isIndirect am = false) (s : State) : ∃ l, locate am s = .ok (l, s) := by
  cases am <;> first | exact ⟨_, rfl⟩ | cases h

section
variable {g : State → State} (hg : Inert g)
include hg

theorem Inert.locate (am : AddressingMode) (s : State) (hx : (g s).x = s.x) (hy : (g s).y = s.y) :
    Machine.locate am (g s) = (Machine.locate am s).map (fun r => (r.1, g r.2)) := by
  cases am with
  | indexedIndirect b =>
    simp only [Machine.locate, hx, State.readPointer, hg.readWord]
    cases s.readWord (Bits.zext16 (b + s.x)) (Bits.zext16 (b + s.x + 1#8)) <;> rfl
  | indirectIndexed b =>
    simp only [Machine.locate, hy, State.readPointer, hg.readWord]
    cases s.readWord (Bits.zext16 b) (Bits.zext16 (b + 1#8)) <;> rfl
  | _ => simp only [Machine.locate, hx, hy]; rfl

theorem Inert.loadLocated (l : Located) (s : State) (ha : (g s).a = s.a) :
    l.load (g s) = (l.load s).map (fun r => (r.1, g r.2)) := by
  cases l with
  | accumulator => simp only [Located.load, ha]; rfl
  | literal v => rfl
  | memory ea k => exact hg.read s ea

theorem Inert.saveLocated (l : Located) (v : Byte) (s : State) (ha : ∀ s v, g (State.setA s v) = (g s).setA v) :
    l.save v (g s) = (l.save v s).map g := by
  cases l with
  | accumulator => exact congrArg Except.ok (ha s v).symm
  | literal v => rfl
  | memory ea k => exact hg.store s ea v

end

/-- Loading an operand reads its byte and does nothing else. -/
theorem Located.load_reads {l : Located} {s t : State} {v : Byte} (h : l.load s = .ok (v, t)) : s.Reads t := by
  cases l with
  | accumulator => cases h; exact State.Reads.refl s
  | literal v => cases h; exact State.Reads.refl s
  | memory ea c => exact State.read_reads h

/-- A refused operand load is a refused memory read (R69). -/
theorem Located.load_error {l : Located} {s : State} {f : Fault} (h : l.load s = .error f) :
    ∃ ea crossed, l = .memory ea crossed ∧ s.load ea = .error f := by
  cases l with
  | accumulator => cases h
  | literal v => cases h
  | memory ea c => exact ⟨ea, c, rfl, State.read_error.1 h⟩

/-- Everything a completed save can have done. -/
theorem Located.save_ok {l : Located} {v : Byte} {s t : State} (h : l.save v s = .ok t) :
    (l = .accumulator ∧ t = s.setA v) ∨ ∃ ea crossed, l = .memory ea crossed ∧ s.store ea v = .ok t := by
  cases l with
  | accumulator => cases h; exact .inl ⟨rfl, rfl⟩
  | literal w => cases h
  | memory ea c => exact .inr ⟨ea, c, rfl, h⟩

theorem Located.save_error {l : Located} {v : Byte} {s : State} {f : Fault} (h : l.save v s = .error f) :
    ((∃ w, l = .literal w) ∧ f = .immediateStore) ∨
    ∃ ea crossed, l = .memory ea crossed ∧ s.store ea v = .error f := by
  cases l with
  | accumulator => cases h
  | literal w => cases h; exact .inl ⟨⟨w, rfl⟩, rfl⟩
  | memory ea c => exact .inr ⟨ea, c, rfl, h⟩

/-- Only the Immediate variant is found at a literal (R142). -/
theorem locate_literal {am : AddressingMode} {s t : State} {w : Byte} (h : locate am s = .ok (.literal w, t)) :
    am = .immediate w := by
  cases am with
  | indexedIndirect b | indirectIndexed b =>
    obtain ⟨⟨w, u⟩, hu, h⟩ := bind_ok.1 h
    simp [indexed, pure, Except.pure] at h
  | _ => simp_all [locate, indexed, zeroPagePlace]

/-- Only the Accumulator variant is found in A (R141). -/
theorem locate_accumulator {am : AddressingMode} {s t : State} (h : locate am s = .ok (.accumulator, t)) :
    am = .accumulator := by
  cases am with
  | indexedIndirect b | indirectIndexed b =>
    obtain ⟨⟨w, u⟩, hu, h⟩ := bind_ok.1 h
    simp [indexed, pure, Except.pure] at h
  | _ => simp_all [locate, indexed, zeroPagePlace]

end Sys2Proof.Machine
end

