-- ==== Sys2Proof/Laws/Canonical.lean ====
section
/-! SUPPORT. Every operation that writes memory keeps its canonical form, and the reset state has it
(spec/20_memory.md R61, spec/40_engine_addressing.md R136, R138). -/

namespace Sys2Proof.Machine

theorem State.reset_wf : Memory.wf State.reset.mem := Memory.nil_wf

theorem State.store_wf {s t : State} {a : Word} {v : Byte} (h : s.store a v = .ok t) (hw : Memory.wf s.mem) :
    Memory.wf t.mem := by
  rcases State.store_ok h with ⟨c, hc, rfl⟩ | ⟨-, rfl⟩ | ⟨-, rfl⟩
  · exact Memory.write_wf v hw (Memory.placeOf_lt (Memory.storeEffect_writes hc))
  · exact hw
  · exact hw

theorem State.Reads.wf {s t : State} (h : s.Reads t) (hw : Memory.wf s.mem) : Memory.wf t.mem := by
  obtain ⟨e, rfl⟩ := h
  exact hw

theorem State.push_wf {s t : State} {v : Byte} (h : s.push v = .ok t) (hw : Memory.wf s.mem) : Memory.wf t.mem := by
  obtain ⟨u, hu, rfl⟩ := State.push_ok h
  have := State.store_wf hu hw
  exact this

theorem State.push16_wf {s t : State} {w : Word} (h : s.push16 w = .ok t) (hw : Memory.wf s.mem) : Memory.wf t.mem := by
  obtain ⟨u, v, hu, hv, rfl⟩ := State.push16_ok h
  have := State.store_wf hv (State.store_wf hu hw)
  exact this

theorem State.enter_wf {s t : State} {ret vec : Word} {pushed : Byte} (h : s.enter ret pushed vec = .ok t)
    (hw : Memory.wf s.mem) : Memory.wf t.mem := by
  obtain ⟨_, _, v, w, _, h1, h2, h3, h4, rfl⟩ := State.enter_ok h
  exact (State.readWord_reads h4).wf (State.store_wf h3 (State.store_wf h2 (State.store_wf h1 hw)))

theorem Located.save_wf {l : Located} {v : Byte} {s t : State} (h : l.save v s = .ok t) (hw : Memory.wf s.mem) :
    Memory.wf t.mem := by
  rcases Located.save_ok h with ⟨-, rfl⟩ | ⟨ea, k, -, h⟩
  · exact hw
  · exact State.store_wf h hw

theorem State.place_wf (s : State) (a : Word) (v : Byte) (hw : Memory.wf s.mem) : Memory.wf (s.place a v).mem := by
  unfold State.place
  split
  · exact Memory.write_wf v hw (Memory.placeOf_lt ‹_›)
  · exact hw
  · exact hw

theorem State.placeAll_wf (bytes : List Byte) :
    ∀ (s : State) (a : Word), Memory.wf s.mem → Memory.wf (s.placeAll a bytes).mem := by
  induction bytes with
  | nil => exact fun _ _ hw => hw
  | cons b rest ih => exact fun s a hw => ih _ _ (State.place_wf s a b hw)

end Sys2Proof.Machine
end

