-- ==== Sys2Proof/Laws/Engine.lean ====
section
/-! SUPPORT. What `execute` and the shapes of operation built on it answer, once: when they complete, and everything a
next state or a fault of theirs can be (spec/40_engine_addressing.md R133 to R135). -/

namespace Sys2Proof.Machine

section
variable {i : Instr} {am : AddressingMode} {s t : State} {f : Fault}

/-- Everything an instruction that completes has done. -/
theorem execute_next {op : State → Except Fault (State × Nat)} (h : execute i op s = .next t) :
    ∃ u cost, op (s.setPC (nextPC i s)) = .ok (u, cost) ∧ t = u.addCycles cost := by
  unfold execute finish at h
  cases e : op (s.setPC (nextPC i s)) with
  | error f => simp [e, bind, Except.bind] at h
  | ok r =>
    simp only [e, bind, Except.bind, pure, Except.pure, Host.Outcome.next.injEq] at h
    exact ⟨r.1, r.2, rfl, h.symm⟩

theorem execute_fault {op : State → Except Fault (State × Nat)} (h : execute i op s = .fault f) :
    op (s.setPC (nextPC i s)) = .error f := by
  unfold execute finish at h
  cases e : op (s.setPC (nextPC i s)) with
  | error g => simpa [e, bind, Except.bind] using h
  | ok r => simp [e, bind, Except.bind, pure, Except.pure] at h

theorem execute_of_ok {op : State → Except Fault (State × Nat)} {u : State} {cost : Nat}
    (h : op (s.setPC (nextPC i s)) = .ok (u, cost)) : execute i op s = .next (u.addCycles cost) := by
  simp [execute, finish, h, bind, Except.bind, pure, Except.pure]

theorem execute_of_error {op : State → Except Fault (State × Nat)} (h : op (s.setPC (nextPC i s)) = .error f) :
    execute i op s = .fault f := by
  simp [execute, finish, h, bind, Except.bind]

/-- An instruction is never refused. -/
theorem execute_not_refused {op : State → Except Fault (State × Nat)} {r : Refusal} : execute i op s ≠ .refused r := by
  unfold execute finish
  split <;> simp

theorem onRegisters_eq (g : State → State) :
    onRegisters i g s =
      .next ((g (s.setPC (nextPC i s))).addCycles (cycleCost s.timing i false 0)) := rfl

theorem onStack_of_ok {g : State → Except Fault State} {u : State} (h : g (s.setPC (nextPC i s)) = .ok u) :
    onStack i g s = .next (u.addCycles (cycleCost s.timing i false 0)) :=
  execute_of_ok (by simp [h, bind, Except.bind, pure, Except.pure])

theorem onStack_of_error {g : State → Except Fault State} (h : g (s.setPC (nextPC i s)) = .error f) :
    onStack i g s = .fault f :=
  execute_of_error (by simp [h, bind, Except.bind])

theorem onStack_next {g : State → Except Fault State} (h : onStack i g s = .next t) :
    ∃ u, g (s.setPC (nextPC i s)) = .ok u ∧ t = u.addCycles (cycleCost s.timing i false 0) := by
  obtain ⟨u, cost, hu, rfl⟩ := execute_next h
  obtain ⟨v, hv, hu⟩ := bind_ok.1 hu
  cases hu
  exact ⟨_, hv, rfl⟩

theorem onStack_fault {g : State → Except Fault State} (h : onStack i g s = .fault f) :
    g (s.setPC (nextPC i s)) = .error f := by
  rcases bind_error.1 (execute_fault h) with h | ⟨u, -, h⟩
  · exact h
  · cases h

/-- The operand of an instruction is found and loaded as before PC was advanced. -/
theorem locate_setPC (am : AddressingMode) (s : State) (w : Word) :
    locate am (s.setPC w) = (locate am s).map (fun r => (r.1, r.2.setPC w)) :=
  (inert_setPC w).locate am s rfl rfl

theorem Located.load_setPC (l : Located) (s : State) (w : Word) :
    l.load (s.setPC w) = (l.load s).map (fun r => (r.1, r.2.setPC w)) := (inert_setPC w).loadLocated l s rfl

theorem Located.save_setPC (l : Located) (v : Byte) (s : State) (w : Word) :
    l.save v (s.setPC w) = (l.save v s).map (fun r => r.setPC w) :=
  (inert_setPC w).saveLocated l v s (fun _ _ => rfl)

/-- What finding an operand and loading it answer together. -/
theorem load_of_locate {l : Located} {u v : State} {m : Byte} (hl : locate am s = .ok (l, u))
    (hm : l.load u = .ok (m, v)) : loadMode am s = .ok (m, v) := by
  simp only [loadMode, hl, bind, Except.bind, hm]

section
variable {l : Located} {u v : State} {m : Byte}

/-- A reading instruction completes when its operand is found and loads. -/
theorem onOperand_of_load {g : Byte → State → State} (hl : locate am s = .ok (l, u)) (hm : l.load u = .ok (m, v)) :
    onOperand i am g s = .next ((g m (v.setPC (nextPC i s))).addCycles (cycleCost s.timing i l.crossed 0)) :=
  execute_of_ok (by
    simp [locate_setPC, Located.load_setPC, hl, hm, Except.map, bind, Except.bind, pure, Except.pure])

theorem onOperand_next {g : Byte → State → State} (h : onOperand i am g s = .next t) :
    ∃ l u m v, locate am s = .ok (l, u) ∧ l.load u = .ok (m, v) ∧
      t = (g m (v.setPC (nextPC i s))).addCycles (cycleCost s.timing i l.crossed 0) := by
  obtain ⟨_, _, hu, -⟩ := execute_next h
  simp only [locate_setPC] at hu
  cases hl : locate am s with
  | error f => simp [hl, Except.map, bind, Except.bind] at hu
  | ok r =>
    cases hm : r.1.load r.2 with
    | error f => simp [hl, Located.load_setPC, hm, Except.map, bind, Except.bind] at hu
    | ok q =>
      rw [onOperand_of_load hl hm] at h
      exact ⟨r.1, r.2, q.1, q.2, rfl, hm, by simpa using h.symm⟩

/-- A reading instruction faults exactly when its operand is not found or does not load. -/
theorem onOperand_fault {g : Byte → State → State} :
    onOperand i am g s = .fault f ↔
      locate am s = .error f ∨ ∃ l u, locate am s = .ok (l, u) ∧ l.load u = .error f := by
  cases hl : locate am s with
  | error f' =>
    have : onOperand i am g s = .fault f' := execute_of_error (by
      simp [locate_setPC, hl, Except.map, bind, Except.bind])
    simp [this]
  | ok r =>
    cases hm : r.1.load r.2 with
    | error f' =>
      have : onOperand i am g s = .fault f' := execute_of_error (by
        simp [locate_setPC, Located.load_setPC, hl, hm, Except.map, bind, Except.bind])
      rw [this]
      constructor
      · intro h; cases h; exact .inr ⟨r.1, r.2, rfl, hm⟩
      · rintro (h | ⟨l, u, h, h'⟩)
        · cases h
        · cases h; rw [hm] at h'; cases h'; rfl
    | ok q =>
      rw [onOperand_of_load hl hm]
      constructor
      · intro h; cases h
      · rintro (h | ⟨l, u, h, h'⟩)
        · cases h
        · cases h; rw [hm] at h'; cases h'

/-- A store completes when its operand is found and the port takes it. -/
theorem storeOperand_of_save {w : State → Byte} (hl : locate am s = .ok (l, u)) (hw : ∀ pc, w (s.setPC pc) = w s)
    (hv : l.save (w s) u = .ok v) :
    storeOperand i am w s = .next ((v.setPC (nextPC i s)).addCycles (cycleCost s.timing i l.crossed 0)) :=
  execute_of_ok (by
    simp [locate_setPC, Located.save_setPC, hl, hw, hv, Except.map, bind, Except.bind, pure, Except.pure])

theorem storeOperand_next {w : State → Byte} (hw : ∀ pc, w (s.setPC pc) = w s) (h : storeOperand i am w s = .next t) :
    ∃ l u v, locate am s = .ok (l, u) ∧ l.save (w s) u = .ok v ∧
      t = (v.setPC (nextPC i s)).addCycles (cycleCost s.timing i l.crossed 0) := by
  obtain ⟨_, _, hu, -⟩ := execute_next h
  simp only [locate_setPC, hw] at hu
  cases hl : locate am s with
  | error f => simp [hl, Except.map, bind, Except.bind] at hu
  | ok r =>
    cases hm : r.1.save (w s) r.2 with
    | error f => simp [hl, Located.save_setPC, hm, Except.map, bind, Except.bind] at hu
    | ok q =>
      rw [storeOperand_of_save hl hw hm] at h
      exact ⟨r.1, r.2, q, rfl, hm, by simpa using h.symm⟩

/-- A store faults exactly when its operand is not found or not saved. -/
theorem storeOperand_fault {w : State → Byte} (hw : ∀ pc, w (s.setPC pc) = w s) :
    storeOperand i am w s = .fault f ↔
      locate am s = .error f ∨ ∃ l u, locate am s = .ok (l, u) ∧ l.save (w s) u = .error f := by
  cases hl : locate am s with
  | error f' =>
    have : storeOperand i am w s = .fault f' := execute_of_error (by
      simp [locate_setPC, hl, Except.map, bind, Except.bind])
    simp [this]
  | ok r =>
    cases hm : r.1.save (w s) r.2 with
    | error f' =>
      have : storeOperand i am w s = .fault f' := execute_of_error (by
        simp [locate_setPC, Located.save_setPC, hl, hw, hm, Except.map, bind, Except.bind])
      rw [this]
      constructor
      · intro h; cases h; exact .inr ⟨r.1, r.2, rfl, hm⟩
      · rintro (h | ⟨l, u, h, h'⟩)
        · cases h
        · cases h; rw [hm] at h'; cases h'; rfl
    | ok q =>
      rw [storeOperand_of_save hl hw hm]
      constructor
      · intro h; cases h
      · rintro (h | ⟨l, u, h, h'⟩)
        · cases h
        · cases h; rw [hm] at h'; cases h'

/-- A read-modify-write completes when its operand is found and loads and the port takes the store. -/
theorem modifyOperand_of_save {r p : Byte → State → Byte} {w : State} (hl : locate am s = .ok (l, u))
    (hm : l.load u = .ok (m, v)) (hr : ∀ m pc, r m (s.setPC pc) = r m s) (hp : ∀ m pc, p m (s.setPC pc) = p m s)
    (hw : l.save (r m s) v = .ok w) :
    modifyOperand i am r p s =
      .next (((w.setPC (nextPC i s)).setP (p m s)).addCycles (cycleCost s.timing i l.crossed 0)) :=
  execute_of_ok (by
    simp [locate_setPC, Located.load_setPC, Located.save_setPC, hl, hm, hr, hp, hw, Except.map, bind, Except.bind, pure,
      Except.pure])

theorem modifyOperand_next {r p : Byte → State → Byte} (hr : ∀ m pc, r m (s.setPC pc) = r m s)
    (hp : ∀ m pc, p m (s.setPC pc) = p m s) (h : modifyOperand i am r p s = .next t) :
    ∃ l u m v w, locate am s = .ok (l, u) ∧ l.load u = .ok (m, v) ∧ l.save (r m s) v = .ok w ∧
      t = ((w.setPC (nextPC i s)).setP (p m s)).addCycles (cycleCost s.timing i l.crossed 0) := by
  obtain ⟨_, _, hu, -⟩ := execute_next h
  simp only [locate_setPC, hr, hp] at hu
  cases hl : locate am s with
  | error f => simp [hl, Except.map, bind, Except.bind] at hu
  | ok a =>
    cases hm : a.1.load a.2 with
    | error f => simp [hl, Located.load_setPC, hm, Except.map, bind, Except.bind] at hu
    | ok b =>
      cases hw : a.1.save (r b.1 s) b.2 with
      | error f => simp [hl, Located.load_setPC, hm, Located.save_setPC, hw, Except.map, bind, Except.bind] at hu
      | ok c =>
        rw [modifyOperand_of_save hl hm hr hp hw] at h
        exact ⟨a.1, a.2, b.1, b.2, c, rfl, hm, hw, by simpa using h.symm⟩

/-- A read-modify-write faults exactly when its operand is not found, not loaded or not saved, in this order. -/
theorem modifyOperand_fault {r p : Byte → State → Byte} (hr : ∀ m pc, r m (s.setPC pc) = r m s)
    (hp : ∀ m pc, p m (s.setPC pc) = p m s) :
    modifyOperand i am r p s = .fault f ↔
      locate am s = .error f ∨
      (∃ l u, locate am s = .ok (l, u) ∧ l.load u = .error f) ∨
      ∃ l u m v, locate am s = .ok (l, u) ∧ l.load u = .ok (m, v) ∧ l.save (r m s) v = .error f := by
  cases hl : locate am s with
  | error f' =>
    have : modifyOperand i am r p s = .fault f' := execute_of_error (by
      simp [locate_setPC, hl, Except.map, bind, Except.bind])
    simp [this]
  | ok a =>
    cases hm : a.1.load a.2 with
    | error f' =>
      have : modifyOperand i am r p s = .fault f' := execute_of_error (by
        simp [locate_setPC, Located.load_setPC, hl, hm, Except.map, bind, Except.bind])
      rw [this]
      constructor
      · intro h; cases h; exact .inr (.inl ⟨a.1, a.2, rfl, hm⟩)
      · rintro (h | ⟨l, u, h, h'⟩ | ⟨l, u, m, v, h, h', -⟩)
        · cases h
        · cases h; rw [hm] at h'; cases h'; rfl
        · cases h; rw [hm] at h'; cases h'
    | ok b =>
      cases hw : a.1.save (r b.1 s) b.2 with
      | error f' =>
        have : modifyOperand i am r p s = .fault f' := execute_of_error (by
          simp [locate_setPC, Located.load_setPC, Located.save_setPC, hl, hm, hr, hw, Except.map, bind, Except.bind])
        rw [this]
        constructor
        · intro h; cases h; exact .inr (.inr ⟨a.1, a.2, b.1, b.2, rfl, hm, hw⟩)
        · rintro (h | ⟨l, u, h, h'⟩ | ⟨l, u, m, v, h, h', h''⟩)
          · cases h
          · cases h; rw [hm] at h'; cases h'
          · cases h; rw [hm] at h'; cases h'; rw [hw] at h''; cases h''; rfl
      | ok c =>
        rw [modifyOperand_of_save hl hm hr hp hw]
        constructor
        · intro h; cases h
        · rintro (h | ⟨l, u, h, h'⟩ | ⟨l, u, m, v, h, h', h''⟩)
          · cases h
          · cases h; rw [hm] at h'; cases h'
          · cases h; rw [hm] at h'; cases h'; rw [hw] at h''; cases h''

end

end

end Sys2Proof.Machine
end

