-- ==== Sys2Proof/Laws/Exec.lean ====
section
/-! SUPPORT. Which operation an instruction of each mnemonic runs, from its mnemonic and operand alone, so that a proof
about a mnemonic does not split over all of Instr. -/

namespace Sys2Proof.Machine

section
variable {i : Instr} {am : AddressingMode} (s : State)

theorem exec_lda (h : mnemonicOf i = .lda) (ho : operandOf i = .mode am) : exec i s = opLda i am s := by
  cases i <;> simp only [mnemonicOf, reduceCtorEq] at h <;> cases ho <;> rfl

theorem exec_ldx (h : mnemonicOf i = .ldx) (ho : operandOf i = .mode am) : exec i s = opLdx i am s := by
  cases i <;> simp only [mnemonicOf, reduceCtorEq] at h <;> cases ho <;> rfl

theorem exec_ldy (h : mnemonicOf i = .ldy) (ho : operandOf i = .mode am) : exec i s = opLdy i am s := by
  cases i <;> simp only [mnemonicOf, reduceCtorEq] at h <;> cases ho <;> rfl

theorem exec_sta (h : mnemonicOf i = .sta) (ho : operandOf i = .mode am) : exec i s = opSta i am s := by
  cases i <;> simp only [mnemonicOf, reduceCtorEq] at h <;> cases ho <;> rfl

theorem exec_stx (h : mnemonicOf i = .stx) (ho : operandOf i = .mode am) : exec i s = opStx i am s := by
  cases i <;> simp only [mnemonicOf, reduceCtorEq] at h <;> cases ho <;> rfl

theorem exec_sty (h : mnemonicOf i = .sty) (ho : operandOf i = .mode am) : exec i s = opSty i am s := by
  cases i <;> simp only [mnemonicOf, reduceCtorEq] at h <;> cases ho <;> rfl

theorem exec_adc (h : mnemonicOf i = .adc) (ho : operandOf i = .mode am) : exec i s = opAdc i am s := by
  cases i <;> simp only [mnemonicOf, reduceCtorEq] at h <;> cases ho <;> rfl

theorem exec_sbc (h : mnemonicOf i = .sbc) (ho : operandOf i = .mode am) : exec i s = opSbc i am s := by
  cases i <;> simp only [mnemonicOf, reduceCtorEq] at h <;> cases ho <;> rfl

theorem exec_and (h : mnemonicOf i = .and) (ho : operandOf i = .mode am) : exec i s = opAnd i am s := by
  cases i <;> simp only [mnemonicOf, reduceCtorEq] at h <;> cases ho <;> rfl

theorem exec_ora (h : mnemonicOf i = .ora) (ho : operandOf i = .mode am) : exec i s = opOra i am s := by
  cases i <;> simp only [mnemonicOf, reduceCtorEq] at h <;> cases ho <;> rfl

theorem exec_eor (h : mnemonicOf i = .eor) (ho : operandOf i = .mode am) : exec i s = opEor i am s := by
  cases i <;> simp only [mnemonicOf, reduceCtorEq] at h <;> cases ho <;> rfl

theorem exec_bit (h : mnemonicOf i = .bit) (ho : operandOf i = .mode am) : exec i s = opBit i am s := by
  cases i <;> simp only [mnemonicOf, reduceCtorEq] at h <;> cases ho <;> rfl

theorem exec_inc (h : mnemonicOf i = .inc) (ho : operandOf i = .mode am) : exec i s = opInc i am s := by
  cases i <;> simp only [mnemonicOf, reduceCtorEq] at h <;> cases ho <;> rfl

theorem exec_dec (h : mnemonicOf i = .dec) (ho : operandOf i = .mode am) : exec i s = opDec i am s := by
  cases i <;> simp only [mnemonicOf, reduceCtorEq] at h <;> cases ho <;> rfl

theorem exec_asl (h : mnemonicOf i = .asl) (ho : operandOf i = .mode am) : exec i s = opShift i .asl am s := by
  cases i <;> simp only [mnemonicOf, reduceCtorEq] at h <;> cases ho <;> rfl

theorem exec_lsr (h : mnemonicOf i = .lsr) (ho : operandOf i = .mode am) : exec i s = opShift i .lsr am s := by
  cases i <;> simp only [mnemonicOf, reduceCtorEq] at h <;> cases ho <;> rfl

theorem exec_rol (h : mnemonicOf i = .rol) (ho : operandOf i = .mode am) : exec i s = opShift i .rol am s := by
  cases i <;> simp only [mnemonicOf, reduceCtorEq] at h <;> cases ho <;> rfl

theorem exec_ror (h : mnemonicOf i = .ror) (ho : operandOf i = .mode am) : exec i s = opShift i .ror am s := by
  cases i <;> simp only [mnemonicOf, reduceCtorEq] at h <;> cases ho <;> rfl

theorem exec_cmp (h : mnemonicOf i = .cmp) (ho : operandOf i = .mode am) : exec i s = opCompare i State.a am s := by
  cases i <;> simp only [mnemonicOf, reduceCtorEq] at h <;> cases ho <;> rfl

theorem exec_cpx (h : mnemonicOf i = .cpx) (ho : operandOf i = .mode am) : exec i s = opCompare i State.x am s := by
  cases i <;> simp only [mnemonicOf, reduceCtorEq] at h <;> cases ho <;> rfl

theorem exec_cpy (h : mnemonicOf i = .cpy) (ho : operandOf i = .mode am) : exec i s = opCompare i State.y am s := by
  cases i <;> simp only [mnemonicOf, reduceCtorEq] at h <;> cases ho <;> rfl

variable {offset : Byte}

theorem exec_bcc (h : mnemonicOf i = .bcc) (ho : operandOf i = .relative offset) :
    exec i s = opBranch i State.c false offset s := by
  cases i <;> simp only [mnemonicOf, reduceCtorEq] at h
  cases ho
  rfl

theorem exec_bcs (h : mnemonicOf i = .bcs) (ho : operandOf i = .relative offset) :
    exec i s = opBranch i State.c true offset s := by
  cases i <;> simp only [mnemonicOf, reduceCtorEq] at h
  cases ho
  rfl

theorem exec_beq (h : mnemonicOf i = .beq) (ho : operandOf i = .relative offset) :
    exec i s = opBranch i State.z true offset s := by
  cases i <;> simp only [mnemonicOf, reduceCtorEq] at h
  cases ho
  rfl

theorem exec_bne (h : mnemonicOf i = .bne) (ho : operandOf i = .relative offset) :
    exec i s = opBranch i State.z false offset s := by
  cases i <;> simp only [mnemonicOf, reduceCtorEq] at h
  cases ho
  rfl

theorem exec_bmi (h : mnemonicOf i = .bmi) (ho : operandOf i = .relative offset) :
    exec i s = opBranch i State.n true offset s := by
  cases i <;> simp only [mnemonicOf, reduceCtorEq] at h
  cases ho
  rfl

theorem exec_bpl (h : mnemonicOf i = .bpl) (ho : operandOf i = .relative offset) :
    exec i s = opBranch i State.n false offset s := by
  cases i <;> simp only [mnemonicOf, reduceCtorEq] at h
  cases ho
  rfl

theorem exec_bvc (h : mnemonicOf i = .bvc) (ho : operandOf i = .relative offset) :
    exec i s = opBranch i State.v false offset s := by
  cases i <;> simp only [mnemonicOf, reduceCtorEq] at h
  cases ho
  rfl

theorem exec_bvs (h : mnemonicOf i = .bvs) (ho : operandOf i = .relative offset) :
    exec i s = opBranch i State.v true offset s := by
  cases i <;> simp only [mnemonicOf, reduceCtorEq] at h
  cases ho
  rfl

end

end Sys2Proof.Machine
end

