-- ==== Sys2Proof/Laws/Flags.lean ====
section
/-! SUPPORT. What each flag computation leaves in each bit of P (spec/10_state.md R35, R36). -/

namespace Sys2Proof.Machine.Flags

/-- `set` writes the named bit and no other (R35). -/
theorem get_put (p : Byte) {k : Nat} (j : Nat) (v : Bool) (hk : k ≤ 7) :
    get (put p k v) j = if j = k then v else get p j := by
  unfold get put
  have hs : (1#8 <<< k).getLsbD j = decide (j = k) := by
    simp only [BitVec.getLsbD_shiftLeft, BitVec.getLsbD_one]
    by_cases h : j = k
    · subst h; simp; omega
    · simp only [h, decide_false]
      by_cases h8 : j < 8
      · by_cases hl : j < k
        · simp [hl]
        · have : j - k ≠ 0 := by omega
          simp [this]
      · simp [h8]
  cases v with
  | true =>
    simp only [if_true, BitVec.getLsbD_or, hs]
    split <;> simp_all
  | false =>
    simp only [Bool.false_eq_true, if_false, BitVec.getLsbD_and, BitVec.getLsbD_not, hs]
    split
    · simp_all
    · by_cases h8 : j < 8 <;> simp_all

@[simp] theorem get_put_c (p : Byte) (j : Nat) (v : Bool) :
    get (put p cBit v) j = if j = cBit then v else get p j := get_put p j v (by decide)

@[simp] theorem get_put_z (p : Byte) (j : Nat) (v : Bool) :
    get (put p zBit v) j = if j = zBit then v else get p j := get_put p j v (by decide)

@[simp] theorem get_put_i (p : Byte) (j : Nat) (v : Bool) :
    get (put p iBit v) j = if j = iBit then v else get p j := get_put p j v (by decide)

@[simp] theorem get_put_d (p : Byte) (j : Nat) (v : Bool) :
    get (put p dBit v) j = if j = dBit then v else get p j := get_put p j v (by decide)

@[simp] theorem get_put_v (p : Byte) (j : Nat) (v : Bool) :
    get (put p vBit v) j = if j = vBit then v else get p j := get_put p j v (by decide)

@[simp] theorem get_put_n (p : Byte) (j : Nat) (v : Bool) :
    get (put p nBit v) j = if j = nBit then v else get p j := get_put p j v (by decide)

/-- The bits of P after SetZN (R36). -/
theorem get_setZN (p v : Byte) (j : Nat) :
    get (setZN p v) j = if j = nBit then v.getLsbD 7 else if j = zBit then v == 0#8 else get p j := by
  unfold setZN
  rw [get_put_n, get_put_z]

/-- What PLP and RTI leave in P: bits 4 and 5 fixed, the others as popped (R31, R32). -/
theorem get_pulled (v : Byte) (j : Nat) :
    get (pulled v) j = if j = uBit then true else if j = bBit then false else get v j := by
  unfold get pulled
  by_cases h8 : j < 8
  · interval_cases j <;> simp
  · have h1 : j ≠ 5 := by omega
    have h2 : j ≠ 4 := by omega
    simp only [h1, h2, if_false]
    rw [BitVec.getLsbD_of_ge _ _ (by omega), BitVec.getLsbD_of_ge _ _ (by omega)]

theorem getLsbD_seven (v : Byte) : v.getLsbD 7 = decide (128 ≤ v.toNat) := by
  rw [← BitVec.msb_eq_getLsbD_last, BitVec.msb_eq_decide]

end Sys2Proof.Machine.Flags
end

