-- ==== Sys2Proof/Laws/PerInstr.lean ====
section
/-! SUPPORT. Facts about every instruction as syntax, one lemma per constructor of Instr. -/

namespace Sys2Proof.Laws.TableRow

/-- A well-formed instruction's table entry has its mnemonic and the format of its operand, and its encoding is as long
as the table says (spec/30_encoding.md R101, R103, R104). -/
def Statement (i : Instr) : Prop :=
  i.wellFormed = true → (entryOf i).mnemonic = Machine.mnemonicOf i ∧
    (entryOf i).format = Machine.formatOf (Machine.operandOf i) ∧ (encode i).length = lengthOf i

theorem ldaImm (value : Byte) : Statement (.ldaImm value) := fun _ => ⟨rfl, rfl, rfl⟩
theorem ldaZp (address : Byte) : Statement (.ldaZp address) := fun _ => ⟨rfl, rfl, rfl⟩
theorem ldaZpx (address : Byte) : Statement (.ldaZpx address) := fun _ => ⟨rfl, rfl, rfl⟩
theorem ldaAbs (address : Word) : Statement (.ldaAbs address) := fun _ => ⟨rfl, rfl, rfl⟩
theorem ldaAbx (address : Word) : Statement (.ldaAbx address) := fun _ => ⟨rfl, rfl, rfl⟩
theorem ldaAby (address : Word) : Statement (.ldaAby address) := fun _ => ⟨rfl, rfl, rfl⟩
theorem ldaIzx (address : Byte) : Statement (.ldaIzx address) := fun _ => ⟨rfl, rfl, rfl⟩
theorem ldaIzy (address : Byte) : Statement (.ldaIzy address) := fun _ => ⟨rfl, rfl, rfl⟩
theorem ldxImm (value : Byte) : Statement (.ldxImm value) := fun _ => ⟨rfl, rfl, rfl⟩
theorem ldxZp (address : Byte) : Statement (.ldxZp address) := fun _ => ⟨rfl, rfl, rfl⟩
theorem ldxZpy (address : Byte) : Statement (.ldxZpy address) := fun _ => ⟨rfl, rfl, rfl⟩
theorem ldxAbs (address : Word) : Statement (.ldxAbs address) := fun _ => ⟨rfl, rfl, rfl⟩
theorem ldxAby (address : Word) : Statement (.ldxAby address) := fun _ => ⟨rfl, rfl, rfl⟩
theorem ldyImm (value : Byte) : Statement (.ldyImm value) := fun _ => ⟨rfl, rfl, rfl⟩
theorem ldyZp (address : Byte) : Statement (.ldyZp address) := fun _ => ⟨rfl, rfl, rfl⟩
theorem ldyZpx (address : Byte) : Statement (.ldyZpx address) := fun _ => ⟨rfl, rfl, rfl⟩
theorem ldyAbs (address : Word) : Statement (.ldyAbs address) := fun _ => ⟨rfl, rfl, rfl⟩
theorem ldyAbx (address : Word) : Statement (.ldyAbx address) := fun _ => ⟨rfl, rfl, rfl⟩
theorem staZp (address : Byte) : Statement (.staZp address) := fun _ => ⟨rfl, rfl, rfl⟩
theorem staZpx (address : Byte) : Statement (.staZpx address) := fun _ => ⟨rfl, rfl, rfl⟩
theorem staAbs (address : Word) : Statement (.staAbs address) := fun _ => ⟨rfl, rfl, rfl⟩
theorem staAbx (address : Word) : Statement (.staAbx address) := fun _ => ⟨rfl, rfl, rfl⟩
theorem staAby (address : Word) : Statement (.staAby address) := fun _ => ⟨rfl, rfl, rfl⟩
theorem staIzx (address : Byte) : Statement (.staIzx address) := fun _ => ⟨rfl, rfl, rfl⟩
theorem staIzy (address : Byte) : Statement (.staIzy address) := fun _ => ⟨rfl, rfl, rfl⟩
theorem stxZp (address : Byte) : Statement (.stxZp address) := fun _ => ⟨rfl, rfl, rfl⟩
theorem stxZpy (address : Byte) : Statement (.stxZpy address) := fun _ => ⟨rfl, rfl, rfl⟩
theorem stxAbs (address : Word) : Statement (.stxAbs address) := fun _ => ⟨rfl, rfl, rfl⟩
theorem styZp (address : Byte) : Statement (.styZp address) := fun _ => ⟨rfl, rfl, rfl⟩
theorem styZpx (address : Byte) : Statement (.styZpx address) := fun _ => ⟨rfl, rfl, rfl⟩
theorem styAbs (address : Word) : Statement (.styAbs address) := fun _ => ⟨rfl, rfl, rfl⟩
theorem tax : Statement .tax := fun _ => ⟨rfl, rfl, rfl⟩
theorem tay : Statement .tay := fun _ => ⟨rfl, rfl, rfl⟩
theorem txa : Statement .txa := fun _ => ⟨rfl, rfl, rfl⟩
theorem tya : Statement .tya := fun _ => ⟨rfl, rfl, rfl⟩
theorem tsx : Statement .tsx := fun _ => ⟨rfl, rfl, rfl⟩
theorem txs : Statement .txs := fun _ => ⟨rfl, rfl, rfl⟩
theorem adcImm (value : Byte) : Statement (.adcImm value) := fun _ => ⟨rfl, rfl, rfl⟩
theorem adcZp (address : Byte) : Statement (.adcZp address) := fun _ => ⟨rfl, rfl, rfl⟩
theorem adcZpx (address : Byte) : Statement (.adcZpx address) := fun _ => ⟨rfl, rfl, rfl⟩
theorem adcAbs (address : Word) : Statement (.adcAbs address) := fun _ => ⟨rfl, rfl, rfl⟩
theorem adcAbx (address : Word) : Statement (.adcAbx address) := fun _ => ⟨rfl, rfl, rfl⟩
theorem adcAby (address : Word) : Statement (.adcAby address) := fun _ => ⟨rfl, rfl, rfl⟩
theorem adcIzx (address : Byte) : Statement (.adcIzx address) := fun _ => ⟨rfl, rfl, rfl⟩
theorem adcIzy (address : Byte) : Statement (.adcIzy address) := fun _ => ⟨rfl, rfl, rfl⟩
theorem sbcImm (value : Byte) : Statement (.sbcImm value) := fun _ => ⟨rfl, rfl, rfl⟩
theorem sbcZp (address : Byte) : Statement (.sbcZp address) := fun _ => ⟨rfl, rfl, rfl⟩
theorem sbcZpx (address : Byte) : Statement (.sbcZpx address) := fun _ => ⟨rfl, rfl, rfl⟩
theorem sbcAbs (address : Word) : Statement (.sbcAbs address) := fun _ => ⟨rfl, rfl, rfl⟩
theorem sbcAbx (address : Word) : Statement (.sbcAbx address) := fun _ => ⟨rfl, rfl, rfl⟩
theorem sbcAby (address : Word) : Statement (.sbcAby address) := fun _ => ⟨rfl, rfl, rfl⟩
theorem sbcIzx (address : Byte) : Statement (.sbcIzx address) := fun _ => ⟨rfl, rfl, rfl⟩
theorem sbcIzy (address : Byte) : Statement (.sbcIzy address) := fun _ => ⟨rfl, rfl, rfl⟩
theorem andImm (value : Byte) : Statement (.andImm value) := fun _ => ⟨rfl, rfl, rfl⟩
theorem andZp (address : Byte) : Statement (.andZp address) := fun _ => ⟨rfl, rfl, rfl⟩
theorem andZpx (address : Byte) : Statement (.andZpx address) := fun _ => ⟨rfl, rfl, rfl⟩
theorem andAbs (address : Word) : Statement (.andAbs address) := fun _ => ⟨rfl, rfl, rfl⟩
theorem andAbx (address : Word) : Statement (.andAbx address) := fun _ => ⟨rfl, rfl, rfl⟩
theorem andAby (address : Word) : Statement (.andAby address) := fun _ => ⟨rfl, rfl, rfl⟩
theorem andIzx (address : Byte) : Statement (.andIzx address) := fun _ => ⟨rfl, rfl, rfl⟩
theorem andIzy (address : Byte) : Statement (.andIzy address) := fun _ => ⟨rfl, rfl, rfl⟩
theorem oraImm (value : Byte) : Statement (.oraImm value) := fun _ => ⟨rfl, rfl, rfl⟩
theorem oraZp (address : Byte) : Statement (.oraZp address) := fun _ => ⟨rfl, rfl, rfl⟩
theorem oraZpx (address : Byte) : Statement (.oraZpx address) := fun _ => ⟨rfl, rfl, rfl⟩
theorem oraAbs (address : Word) : Statement (.oraAbs address) := fun _ => ⟨rfl, rfl, rfl⟩
theorem oraAbx (address : Word) : Statement (.oraAbx address) := fun _ => ⟨rfl, rfl, rfl⟩
theorem oraAby (address : Word) : Statement (.oraAby address) := fun _ => ⟨rfl, rfl, rfl⟩
theorem oraIzx (address : Byte) : Statement (.oraIzx address) := fun _ => ⟨rfl, rfl, rfl⟩
theorem oraIzy (address : Byte) : Statement (.oraIzy address) := fun _ => ⟨rfl, rfl, rfl⟩
theorem eorImm (value : Byte) : Statement (.eorImm value) := fun _ => ⟨rfl, rfl, rfl⟩
theorem eorZp (address : Byte) : Statement (.eorZp address) := fun _ => ⟨rfl, rfl, rfl⟩
theorem eorZpx (address : Byte) : Statement (.eorZpx address) := fun _ => ⟨rfl, rfl, rfl⟩
theorem eorAbs (address : Word) : Statement (.eorAbs address) := fun _ => ⟨rfl, rfl, rfl⟩
theorem eorAbx (address : Word) : Statement (.eorAbx address) := fun _ => ⟨rfl, rfl, rfl⟩
theorem eorAby (address : Word) : Statement (.eorAby address) := fun _ => ⟨rfl, rfl, rfl⟩
theorem eorIzx (address : Byte) : Statement (.eorIzx address) := fun _ => ⟨rfl, rfl, rfl⟩
theorem eorIzy (address : Byte) : Statement (.eorIzy address) := fun _ => ⟨rfl, rfl, rfl⟩
theorem bitZp (address : Byte) : Statement (.bitZp address) := fun _ => ⟨rfl, rfl, rfl⟩
theorem bitAbs (address : Word) : Statement (.bitAbs address) := fun _ => ⟨rfl, rfl, rfl⟩
theorem incZp (address : Byte) : Statement (.incZp address) := fun _ => ⟨rfl, rfl, rfl⟩
theorem incZpx (address : Byte) : Statement (.incZpx address) := fun _ => ⟨rfl, rfl, rfl⟩
theorem incAbs (address : Word) : Statement (.incAbs address) := fun _ => ⟨rfl, rfl, rfl⟩
theorem incAbx (address : Word) : Statement (.incAbx address) := fun _ => ⟨rfl, rfl, rfl⟩
theorem decZp (address : Byte) : Statement (.decZp address) := fun _ => ⟨rfl, rfl, rfl⟩
theorem decZpx (address : Byte) : Statement (.decZpx address) := fun _ => ⟨rfl, rfl, rfl⟩
theorem decAbs (address : Word) : Statement (.decAbs address) := fun _ => ⟨rfl, rfl, rfl⟩
theorem decAbx (address : Word) : Statement (.decAbx address) := fun _ => ⟨rfl, rfl, rfl⟩
theorem inx : Statement .inx := fun _ => ⟨rfl, rfl, rfl⟩
theorem iny : Statement .iny := fun _ => ⟨rfl, rfl, rfl⟩
theorem dex : Statement .dex := fun _ => ⟨rfl, rfl, rfl⟩
theorem dey : Statement .dey := fun _ => ⟨rfl, rfl, rfl⟩
theorem aslAcc : Statement .aslAcc := fun _ => ⟨rfl, rfl, rfl⟩
theorem aslZp (address : Byte) : Statement (.aslZp address) := fun _ => ⟨rfl, rfl, rfl⟩
theorem aslZpx (address : Byte) : Statement (.aslZpx address) := fun _ => ⟨rfl, rfl, rfl⟩
theorem aslAbs (address : Word) : Statement (.aslAbs address) := fun _ => ⟨rfl, rfl, rfl⟩
theorem aslAbx (address : Word) : Statement (.aslAbx address) := fun _ => ⟨rfl, rfl, rfl⟩
theorem lsrAcc : Statement .lsrAcc := fun _ => ⟨rfl, rfl, rfl⟩
theorem lsrZp (address : Byte) : Statement (.lsrZp address) := fun _ => ⟨rfl, rfl, rfl⟩
theorem lsrZpx (address : Byte) : Statement (.lsrZpx address) := fun _ => ⟨rfl, rfl, rfl⟩
theorem lsrAbs (address : Word) : Statement (.lsrAbs address) := fun _ => ⟨rfl, rfl, rfl⟩
theorem lsrAbx (address : Word) : Statement (.lsrAbx address) := fun _ => ⟨rfl, rfl, rfl⟩
theorem rolAcc : Statement .rolAcc := fun _ => ⟨rfl, rfl, rfl⟩
theorem rolZp (address : Byte) : Statement (.rolZp address) := fun _ => ⟨rfl, rfl, rfl⟩
theorem rolZpx (address : Byte) : Statement (.rolZpx address) := fun _ => ⟨rfl, rfl, rfl⟩
theorem rolAbs (address : Word) : Statement (.rolAbs address) := fun _ => ⟨rfl, rfl, rfl⟩
theorem rolAbx (address : Word) : Statement (.rolAbx address) := fun _ => ⟨rfl, rfl, rfl⟩
theorem rorAcc : Statement .rorAcc := fun _ => ⟨rfl, rfl, rfl⟩
theorem rorZp (address : Byte) : Statement (.rorZp address) := fun _ => ⟨rfl, rfl, rfl⟩
theorem rorZpx (address : Byte) : Statement (.rorZpx address) := fun _ => ⟨rfl, rfl, rfl⟩
theorem rorAbs (address : Word) : Statement (.rorAbs address) := fun _ => ⟨rfl, rfl, rfl⟩
theorem rorAbx (address : Word) : Statement (.rorAbx address) := fun _ => ⟨rfl, rfl, rfl⟩
theorem cmpImm (value : Byte) : Statement (.cmpImm value) := fun _ => ⟨rfl, rfl, rfl⟩
theorem cmpZp (address : Byte) : Statement (.cmpZp address) := fun _ => ⟨rfl, rfl, rfl⟩
theorem cmpZpx (address : Byte) : Statement (.cmpZpx address) := fun _ => ⟨rfl, rfl, rfl⟩
theorem cmpAbs (address : Word) : Statement (.cmpAbs address) := fun _ => ⟨rfl, rfl, rfl⟩
theorem cmpAbx (address : Word) : Statement (.cmpAbx address) := fun _ => ⟨rfl, rfl, rfl⟩
theorem cmpAby (address : Word) : Statement (.cmpAby address) := fun _ => ⟨rfl, rfl, rfl⟩
theorem cmpIzx (address : Byte) : Statement (.cmpIzx address) := fun _ => ⟨rfl, rfl, rfl⟩
theorem cmpIzy (address : Byte) : Statement (.cmpIzy address) := fun _ => ⟨rfl, rfl, rfl⟩
theorem cpxImm (value : Byte) : Statement (.cpxImm value) := fun _ => ⟨rfl, rfl, rfl⟩
theorem cpxZp (address : Byte) : Statement (.cpxZp address) := fun _ => ⟨rfl, rfl, rfl⟩
theorem cpxAbs (address : Word) : Statement (.cpxAbs address) := fun _ => ⟨rfl, rfl, rfl⟩
theorem cpyImm (value : Byte) : Statement (.cpyImm value) := fun _ => ⟨rfl, rfl, rfl⟩
theorem cpyZp (address : Byte) : Statement (.cpyZp address) := fun _ => ⟨rfl, rfl, rfl⟩
theorem cpyAbs (address : Word) : Statement (.cpyAbs address) := fun _ => ⟨rfl, rfl, rfl⟩
theorem bcc (offset : Byte) : Statement (.bcc offset) := fun _ => ⟨rfl, rfl, rfl⟩
theorem bcs (offset : Byte) : Statement (.bcs offset) := fun _ => ⟨rfl, rfl, rfl⟩
theorem beq (offset : Byte) : Statement (.beq offset) := fun _ => ⟨rfl, rfl, rfl⟩
theorem bne (offset : Byte) : Statement (.bne offset) := fun _ => ⟨rfl, rfl, rfl⟩
theorem bmi (offset : Byte) : Statement (.bmi offset) := fun _ => ⟨rfl, rfl, rfl⟩
theorem bpl (offset : Byte) : Statement (.bpl offset) := fun _ => ⟨rfl, rfl, rfl⟩
theorem bvc (offset : Byte) : Statement (.bvc offset) := fun _ => ⟨rfl, rfl, rfl⟩
theorem bvs (offset : Byte) : Statement (.bvs offset) := fun _ => ⟨rfl, rfl, rfl⟩
theorem brk : Statement .brk := fun _ => ⟨rfl, rfl, rfl⟩
theorem rti : Statement .rti := fun _ => ⟨rfl, rfl, rfl⟩
theorem pha : Statement .pha := fun _ => ⟨rfl, rfl, rfl⟩
theorem php : Statement .php := fun _ => ⟨rfl, rfl, rfl⟩
theorem pla : Statement .pla := fun _ => ⟨rfl, rfl, rfl⟩
theorem plp : Statement .plp := fun _ => ⟨rfl, rfl, rfl⟩
theorem clc : Statement .clc := fun _ => ⟨rfl, rfl, rfl⟩
theorem sec : Statement .sec := fun _ => ⟨rfl, rfl, rfl⟩
theorem cli : Statement .cli := fun _ => ⟨rfl, rfl, rfl⟩
theorem sei : Statement .sei := fun _ => ⟨rfl, rfl, rfl⟩
theorem cld : Statement .cld := fun _ => ⟨rfl, rfl, rfl⟩
theorem sed : Statement .sed := fun _ => ⟨rfl, rfl, rfl⟩
theorem clv : Statement .clv := fun _ => ⟨rfl, rfl, rfl⟩
theorem nop : Statement .nop := fun _ => ⟨rfl, rfl, rfl⟩
theorem jmpAbs (address : Word) : Statement (.jmpAbs address) := fun _ => ⟨rfl, rfl, rfl⟩
theorem jmpInd (pointer : Word) : Statement (.jmpInd pointer) := fun _ => ⟨rfl, rfl, rfl⟩
theorem jsr (address : Word) : Statement (.jsr address) := fun _ => ⟨rfl, rfl, rfl⟩
theorem rts : Statement .rts := fun _ => ⟨rfl, rfl, rfl⟩

theorem stub_of_illegal : ∀ op : Byte, (Machine.tableEntry op).mnemonic = .illegal →
    (Machine.tableEntry op).format = .noFormat := by decide

theorem illegal (opcode : Byte) : Statement (.illegal opcode) := by
  intro h
  have hm : (Machine.tableEntry opcode).mnemonic = .illegal := by simpa [Instr.wellFormed] using h
  have hf := stub_of_illegal opcode hm
  exact ⟨hm, hf, by simp [encode, opcodeOf, Machine.operandOf, operandBytes, lengthOf, entryOf,
    Machine.TableEntry.length, hf, Machine.formatLength]⟩

end Sys2Proof.Laws.TableRow
end

