-- ==== Sys2Proof/Laws/Shape.lean ====
section
/-! SUPPORT. The shape of every instruction that has an operand to load or store, and of branches and flag instructions:
which of the shared operations it is (spec/40_engine_addressing.md R133, R140). -/

namespace Sys2Proof.Machine

/-- The shape of an instruction: a shared operation with the functions that make it this instruction. -/
inductive Shape (i : Instr) : Prop where
  /-- It loads its operand and changes registers alone. -/
  | reads (am : AddressingMode) (f : Byte → State → State) (ho : operandOf i = .mode am) (h : exec i = onOperand i am f)
  /-- It stores a byte that does not depend on PC. -/
  | stores (am : AddressingMode) (v : State → Byte) (ho : operandOf i = .mode am) (hv : ∀ s w, v (State.setPC s w) = v s)
      (h : exec i = storeOperand i am v)
  /-- It loads its operand and stores a result, neither of which depends on PC. -/
  | modifies (am : AddressingMode) (r p : Byte → State → Byte) (ho : operandOf i = .mode am)
      (hr : ∀ m s w, r m (State.setPC s w) = r m s) (hp : ∀ m s w, p m (State.setPC s w) = p m s)
      (h : exec i = modifyOperand i am r p)
  /-- It changes registers alone, without an operand to load. -/
  | registers (f : State → State) (h : exec i = onRegisters i f)
  /-- It is a branch. -/
  | branches (flag : State → Bool) (want : Bool) (offset : Byte) (ho : operandOf i = .relative offset)
      (h : exec i = opBranch i flag want offset)
  /-- It is a stack, flag or jump instruction. -/
  | other (f : State → State → Except Fault State) (h : exec i = fun s => onStack i (f s) s)
  /-- It is an unassigned opcode. -/
  | faults (op : Byte) (h : i = .illegal op)

/-- Every instruction has one of the shapes. -/
theorem shape_of (i : Instr) : Shape i := by
  cases i with
  | ldaImm w => exact .reads _ (fun m t => (t.setA m).setZN m) rfl rfl
  | ldaZp w => exact .reads _ (fun m t => (t.setA m).setZN m) rfl rfl
  | ldaZpx w => exact .reads _ (fun m t => (t.setA m).setZN m) rfl rfl
  | ldaAbs w => exact .reads _ (fun m t => (t.setA m).setZN m) rfl rfl
  | ldaAbx w => exact .reads _ (fun m t => (t.setA m).setZN m) rfl rfl
  | ldaAby w => exact .reads _ (fun m t => (t.setA m).setZN m) rfl rfl
  | ldaIzx w => exact .reads _ (fun m t => (t.setA m).setZN m) rfl rfl
  | ldaIzy w => exact .reads _ (fun m t => (t.setA m).setZN m) rfl rfl
  | ldxImm w => exact .reads _ (fun m t => (t.setX m).setZN m) rfl rfl
  | ldxZp w => exact .reads _ (fun m t => (t.setX m).setZN m) rfl rfl
  | ldxZpy w => exact .reads _ (fun m t => (t.setX m).setZN m) rfl rfl
  | ldxAbs w => exact .reads _ (fun m t => (t.setX m).setZN m) rfl rfl
  | ldxAby w => exact .reads _ (fun m t => (t.setX m).setZN m) rfl rfl
  | ldyImm w => exact .reads _ (fun m t => (t.setY m).setZN m) rfl rfl
  | ldyZp w => exact .reads _ (fun m t => (t.setY m).setZN m) rfl rfl
  | ldyZpx w => exact .reads _ (fun m t => (t.setY m).setZN m) rfl rfl
  | ldyAbs w => exact .reads _ (fun m t => (t.setY m).setZN m) rfl rfl
  | ldyAbx w => exact .reads _ (fun m t => (t.setY m).setZN m) rfl rfl
  | staZp w => exact .stores _ (fun t => t.a) rfl (fun _ _ => rfl) rfl
  | staZpx w => exact .stores _ (fun t => t.a) rfl (fun _ _ => rfl) rfl
  | staAbs w => exact .stores _ (fun t => t.a) rfl (fun _ _ => rfl) rfl
  | staAbx w => exact .stores _ (fun t => t.a) rfl (fun _ _ => rfl) rfl
  | staAby w => exact .stores _ (fun t => t.a) rfl (fun _ _ => rfl) rfl
  | staIzx w => exact .stores _ (fun t => t.a) rfl (fun _ _ => rfl) rfl
  | staIzy w => exact .stores _ (fun t => t.a) rfl (fun _ _ => rfl) rfl
  | stxZp w => exact .stores _ (fun t => t.x) rfl (fun _ _ => rfl) rfl
  | stxZpy w => exact .stores _ (fun t => t.x) rfl (fun _ _ => rfl) rfl
  | stxAbs w => exact .stores _ (fun t => t.x) rfl (fun _ _ => rfl) rfl
  | styZp w => exact .stores _ (fun t => t.y) rfl (fun _ _ => rfl) rfl
  | styZpx w => exact .stores _ (fun t => t.y) rfl (fun _ _ => rfl) rfl
  | styAbs w => exact .stores _ (fun t => t.y) rfl (fun _ _ => rfl) rfl
  | tax => exact .registers (fun t => (t.setX t.a).setZN t.a) rfl
  | tay => exact .registers (fun t => (t.setY t.a).setZN t.a) rfl
  | txa => exact .registers (fun t => (t.setA t.x).setZN t.x) rfl
  | tya => exact .registers (fun t => (t.setA t.y).setZN t.y) rfl
  | tsx => exact .registers (fun t => (t.setX t.sp).setZN t.sp) rfl
  | txs => exact .registers (fun t => t.setSP t.x) rfl
  | adcImm w => exact .reads _ (addToA) rfl rfl
  | adcZp w => exact .reads _ (addToA) rfl rfl
  | adcZpx w => exact .reads _ (addToA) rfl rfl
  | adcAbs w => exact .reads _ (addToA) rfl rfl
  | adcAbx w => exact .reads _ (addToA) rfl rfl
  | adcAby w => exact .reads _ (addToA) rfl rfl
  | adcIzx w => exact .reads _ (addToA) rfl rfl
  | adcIzy w => exact .reads _ (addToA) rfl rfl
  | sbcImm w => exact .reads _ (fun m t => addToA (m ^^^ 0xFF#8) t) rfl rfl
  | sbcZp w => exact .reads _ (fun m t => addToA (m ^^^ 0xFF#8) t) rfl rfl
  | sbcZpx w => exact .reads _ (fun m t => addToA (m ^^^ 0xFF#8) t) rfl rfl
  | sbcAbs w => exact .reads _ (fun m t => addToA (m ^^^ 0xFF#8) t) rfl rfl
  | sbcAbx w => exact .reads _ (fun m t => addToA (m ^^^ 0xFF#8) t) rfl rfl
  | sbcAby w => exact .reads _ (fun m t => addToA (m ^^^ 0xFF#8) t) rfl rfl
  | sbcIzx w => exact .reads _ (fun m t => addToA (m ^^^ 0xFF#8) t) rfl rfl
  | sbcIzy w => exact .reads _ (fun m t => addToA (m ^^^ 0xFF#8) t) rfl rfl
  | andImm w => exact .reads _ (fun m t => (t.setA (t.a &&& m)).setZN (t.a &&& m)) rfl rfl
  | andZp w => exact .reads _ (fun m t => (t.setA (t.a &&& m)).setZN (t.a &&& m)) rfl rfl
  | andZpx w => exact .reads _ (fun m t => (t.setA (t.a &&& m)).setZN (t.a &&& m)) rfl rfl
  | andAbs w => exact .reads _ (fun m t => (t.setA (t.a &&& m)).setZN (t.a &&& m)) rfl rfl
  | andAbx w => exact .reads _ (fun m t => (t.setA (t.a &&& m)).setZN (t.a &&& m)) rfl rfl
  | andAby w => exact .reads _ (fun m t => (t.setA (t.a &&& m)).setZN (t.a &&& m)) rfl rfl
  | andIzx w => exact .reads _ (fun m t => (t.setA (t.a &&& m)).setZN (t.a &&& m)) rfl rfl
  | andIzy w => exact .reads _ (fun m t => (t.setA (t.a &&& m)).setZN (t.a &&& m)) rfl rfl
  | oraImm w => exact .reads _ (fun m t => (t.setA (t.a ||| m)).setZN (t.a ||| m)) rfl rfl
  | oraZp w => exact .reads _ (fun m t => (t.setA (t.a ||| m)).setZN (t.a ||| m)) rfl rfl
  | oraZpx w => exact .reads _ (fun m t => (t.setA (t.a ||| m)).setZN (t.a ||| m)) rfl rfl
  | oraAbs w => exact .reads _ (fun m t => (t.setA (t.a ||| m)).setZN (t.a ||| m)) rfl rfl
  | oraAbx w => exact .reads _ (fun m t => (t.setA (t.a ||| m)).setZN (t.a ||| m)) rfl rfl
  | oraAby w => exact .reads _ (fun m t => (t.setA (t.a ||| m)).setZN (t.a ||| m)) rfl rfl
  | oraIzx w => exact .reads _ (fun m t => (t.setA (t.a ||| m)).setZN (t.a ||| m)) rfl rfl
  | oraIzy w => exact .reads _ (fun m t => (t.setA (t.a ||| m)).setZN (t.a ||| m)) rfl rfl
  | eorImm w => exact .reads _ (fun m t => (t.setA (t.a ^^^ m)).setZN (t.a ^^^ m)) rfl rfl
  | eorZp w => exact .reads _ (fun m t => (t.setA (t.a ^^^ m)).setZN (t.a ^^^ m)) rfl rfl
  | eorZpx w => exact .reads _ (fun m t => (t.setA (t.a ^^^ m)).setZN (t.a ^^^ m)) rfl rfl
  | eorAbs w => exact .reads _ (fun m t => (t.setA (t.a ^^^ m)).setZN (t.a ^^^ m)) rfl rfl
  | eorAbx w => exact .reads _ (fun m t => (t.setA (t.a ^^^ m)).setZN (t.a ^^^ m)) rfl rfl
  | eorAby w => exact .reads _ (fun m t => (t.setA (t.a ^^^ m)).setZN (t.a ^^^ m)) rfl rfl
  | eorIzx w => exact .reads _ (fun m t => (t.setA (t.a ^^^ m)).setZN (t.a ^^^ m)) rfl rfl
  | eorIzy w => exact .reads _ (fun m t => (t.setA (t.a ^^^ m)).setZN (t.a ^^^ m)) rfl rfl
  | bitZp w => exact .reads _ (fun m t => t.setP (Flags.bitStatus t.p t.a m)) rfl rfl
  | bitAbs w => exact .reads _ (fun m t => t.setP (Flags.bitStatus t.p t.a m)) rfl rfl
  | incZp w => exact .modifies _ (fun m _ => m + 1#8) (fun m t => Flags.setZN t.p (m + 1#8)) rfl (fun _ _ _ => rfl) (fun _ _ _ => rfl) rfl
  | incZpx w => exact .modifies _ (fun m _ => m + 1#8) (fun m t => Flags.setZN t.p (m + 1#8)) rfl (fun _ _ _ => rfl) (fun _ _ _ => rfl) rfl
  | incAbs w => exact .modifies _ (fun m _ => m + 1#8) (fun m t => Flags.setZN t.p (m + 1#8)) rfl (fun _ _ _ => rfl) (fun _ _ _ => rfl) rfl
  | incAbx w => exact .modifies _ (fun m _ => m + 1#8) (fun m t => Flags.setZN t.p (m + 1#8)) rfl (fun _ _ _ => rfl) (fun _ _ _ => rfl) rfl
  | decZp w => exact .modifies _ (fun m _ => m - 1#8) (fun m t => Flags.setZN t.p (m - 1#8)) rfl (fun _ _ _ => rfl) (fun _ _ _ => rfl) rfl
  | decZpx w => exact .modifies _ (fun m _ => m - 1#8) (fun m t => Flags.setZN t.p (m - 1#8)) rfl (fun _ _ _ => rfl) (fun _ _ _ => rfl) rfl
  | decAbs w => exact .modifies _ (fun m _ => m - 1#8) (fun m t => Flags.setZN t.p (m - 1#8)) rfl (fun _ _ _ => rfl) (fun _ _ _ => rfl) rfl
  | decAbx w => exact .modifies _ (fun m _ => m - 1#8) (fun m t => Flags.setZN t.p (m - 1#8)) rfl (fun _ _ _ => rfl) (fun _ _ _ => rfl) rfl
  | inx => exact .registers (fun t => (t.setX (t.x + 1#8)).setZN (t.x + 1#8)) rfl
  | iny => exact .registers (fun t => (t.setY (t.y + 1#8)).setZN (t.y + 1#8)) rfl
  | dex => exact .registers (fun t => (t.setX (t.x - 1#8)).setZN (t.x - 1#8)) rfl
  | dey => exact .registers (fun t => (t.setY (t.y - 1#8)).setZN (t.y - 1#8)) rfl
  | aslAcc => exact .modifies _ (fun m t => Flags.shiftResult .asl m t.c) (fun m t => Flags.shiftStatus .asl t.p m t.c) rfl (fun _ _ _ => rfl) (fun _ _ _ => rfl) rfl
  | aslZp w => exact .modifies _ (fun m t => Flags.shiftResult .asl m t.c) (fun m t => Flags.shiftStatus .asl t.p m t.c) rfl (fun _ _ _ => rfl) (fun _ _ _ => rfl) rfl
  | aslZpx w => exact .modifies _ (fun m t => Flags.shiftResult .asl m t.c) (fun m t => Flags.shiftStatus .asl t.p m t.c) rfl (fun _ _ _ => rfl) (fun _ _ _ => rfl) rfl
  | aslAbs w => exact .modifies _ (fun m t => Flags.shiftResult .asl m t.c) (fun m t => Flags.shiftStatus .asl t.p m t.c) rfl (fun _ _ _ => rfl) (fun _ _ _ => rfl) rfl
  | aslAbx w => exact .modifies _ (fun m t => Flags.shiftResult .asl m t.c) (fun m t => Flags.shiftStatus .asl t.p m t.c) rfl (fun _ _ _ => rfl) (fun _ _ _ => rfl) rfl
  | lsrAcc => exact .modifies _ (fun m t => Flags.shiftResult .lsr m t.c) (fun m t => Flags.shiftStatus .lsr t.p m t.c) rfl (fun _ _ _ => rfl) (fun _ _ _ => rfl) rfl
  | lsrZp w => exact .modifies _ (fun m t => Flags.shiftResult .lsr m t.c) (fun m t => Flags.shiftStatus .lsr t.p m t.c) rfl (fun _ _ _ => rfl) (fun _ _ _ => rfl) rfl
  | lsrZpx w => exact .modifies _ (fun m t => Flags.shiftResult .lsr m t.c) (fun m t => Flags.shiftStatus .lsr t.p m t.c) rfl (fun _ _ _ => rfl) (fun _ _ _ => rfl) rfl
  | lsrAbs w => exact .modifies _ (fun m t => Flags.shiftResult .lsr m t.c) (fun m t => Flags.shiftStatus .lsr t.p m t.c) rfl (fun _ _ _ => rfl) (fun _ _ _ => rfl) rfl
  | lsrAbx w => exact .modifies _ (fun m t => Flags.shiftResult .lsr m t.c) (fun m t => Flags.shiftStatus .lsr t.p m t.c) rfl (fun _ _ _ => rfl) (fun _ _ _ => rfl) rfl
  | rolAcc => exact .modifies _ (fun m t => Flags.shiftResult .rol m t.c) (fun m t => Flags.shiftStatus .rol t.p m t.c) rfl (fun _ _ _ => rfl) (fun _ _ _ => rfl) rfl
  | rolZp w => exact .modifies _ (fun m t => Flags.shiftResult .rol m t.c) (fun m t => Flags.shiftStatus .rol t.p m t.c) rfl (fun _ _ _ => rfl) (fun _ _ _ => rfl) rfl
  | rolZpx w => exact .modifies _ (fun m t => Flags.shiftResult .rol m t.c) (fun m t => Flags.shiftStatus .rol t.p m t.c) rfl (fun _ _ _ => rfl) (fun _ _ _ => rfl) rfl
  | rolAbs w => exact .modifies _ (fun m t => Flags.shiftResult .rol m t.c) (fun m t => Flags.shiftStatus .rol t.p m t.c) rfl (fun _ _ _ => rfl) (fun _ _ _ => rfl) rfl
  | rolAbx w => exact .modifies _ (fun m t => Flags.shiftResult .rol m t.c) (fun m t => Flags.shiftStatus .rol t.p m t.c) rfl (fun _ _ _ => rfl) (fun _ _ _ => rfl) rfl
  | rorAcc => exact .modifies _ (fun m t => Flags.shiftResult .ror m t.c) (fun m t => Flags.shiftStatus .ror t.p m t.c) rfl (fun _ _ _ => rfl) (fun _ _ _ => rfl) rfl
  | rorZp w => exact .modifies _ (fun m t => Flags.shiftResult .ror m t.c) (fun m t => Flags.shiftStatus .ror t.p m t.c) rfl (fun _ _ _ => rfl) (fun _ _ _ => rfl) rfl
  | rorZpx w => exact .modifies _ (fun m t => Flags.shiftResult .ror m t.c) (fun m t => Flags.shiftStatus .ror t.p m t.c) rfl (fun _ _ _ => rfl) (fun _ _ _ => rfl) rfl
  | rorAbs w => exact .modifies _ (fun m t => Flags.shiftResult .ror m t.c) (fun m t => Flags.shiftStatus .ror t.p m t.c) rfl (fun _ _ _ => rfl) (fun _ _ _ => rfl) rfl
  | rorAbx w => exact .modifies _ (fun m t => Flags.shiftResult .ror m t.c) (fun m t => Flags.shiftStatus .ror t.p m t.c) rfl (fun _ _ _ => rfl) (fun _ _ _ => rfl) rfl
  | cmpImm w => exact .reads _ (fun m t => t.setP (Flags.compareStatus t.p t.a m)) rfl rfl
  | cmpZp w => exact .reads _ (fun m t => t.setP (Flags.compareStatus t.p t.a m)) rfl rfl
  | cmpZpx w => exact .reads _ (fun m t => t.setP (Flags.compareStatus t.p t.a m)) rfl rfl
  | cmpAbs w => exact .reads _ (fun m t => t.setP (Flags.compareStatus t.p t.a m)) rfl rfl
  | cmpAbx w => exact .reads _ (fun m t => t.setP (Flags.compareStatus t.p t.a m)) rfl rfl
  | cmpAby w => exact .reads _ (fun m t => t.setP (Flags.compareStatus t.p t.a m)) rfl rfl
  | cmpIzx w => exact .reads _ (fun m t => t.setP (Flags.compareStatus t.p t.a m)) rfl rfl
  | cmpIzy w => exact .reads _ (fun m t => t.setP (Flags.compareStatus t.p t.a m)) rfl rfl
  | cpxImm w => exact .reads _ (fun m t => t.setP (Flags.compareStatus t.p t.x m)) rfl rfl
  | cpxZp w => exact .reads _ (fun m t => t.setP (Flags.compareStatus t.p t.x m)) rfl rfl
  | cpxAbs w => exact .reads _ (fun m t => t.setP (Flags.compareStatus t.p t.x m)) rfl rfl
  | cpyImm w => exact .reads _ (fun m t => t.setP (Flags.compareStatus t.p t.y m)) rfl rfl
  | cpyZp w => exact .reads _ (fun m t => t.setP (Flags.compareStatus t.p t.y m)) rfl rfl
  | cpyAbs w => exact .reads _ (fun m t => t.setP (Flags.compareStatus t.p t.y m)) rfl rfl
  | bcc w => exact .branches State.c false w rfl rfl
  | bcs w => exact .branches State.c true w rfl rfl
  | beq w => exact .branches State.z true w rfl rfl
  | bne w => exact .branches State.z false w rfl rfl
  | bmi w => exact .branches State.n true w rfl rfl
  | bpl w => exact .branches State.n false w rfl rfl
  | bvc w => exact .branches State.v false w rfl rfl
  | bvs w => exact .branches State.v true w rfl rfl
  | brk => exact .other (fun s t => t.enter (s.pc + 2#16) (Flags.pushedByBreak t.p) irqVector) rfl
  | rti => exact .other (fun _ t => t.leave) rfl
  | pha => exact .other (fun _ t => t.push t.a) rfl
  | php => exact .other (fun _ t => t.push (Flags.pushedByBreak t.p)) rfl
  | pla => exact .other (fun _ t => do let (v, u) ← t.pop; return (u.setA v).setZN v) rfl
  | plp => exact .other (fun _ t => do let (v, u) ← t.pop; return u.setP (Flags.pulled v)) rfl
  | clc => exact .other (fun _ t => t.setBit Flags.cBit false) rfl
  | sec => exact .other (fun _ t => t.setBit Flags.cBit true) rfl
  | cli => exact .other (fun _ t => t.setBit Flags.iBit false) rfl
  | sei => exact .other (fun _ t => t.setBit Flags.iBit true) rfl
  | cld => exact .other (fun _ t => t.setBit Flags.dBit false) rfl
  | sed => exact .other (fun _ t => t.setBit Flags.dBit true) rfl
  | clv => exact .other (fun _ t => t.setBit Flags.vBit false) rfl
  | nop => exact .registers (fun t => t) rfl
  | jmpAbs w => exact .registers (fun t => t.setPC w) rfl
  | jmpInd w => exact .other (fun _ t => do let (target, u) ← t.readInPage w; return u.setPC target) rfl
  | jsr w => exact .other (fun s t => do let u ← t.push16 (s.pc + 2#16); return u.setPC w) rfl
  | rts => exact .other (fun _ t => do let (w, u) ← t.pop16; return u.setPC (w + 1#16)) rfl
  | illegal op => exact .faults op rfl

/-- What a branch answers: the target and its extra cycles when taken, else only the base cost (R240). -/
theorem opBranch_eq (i : Instr) (flag : State → Bool) (want : Bool) (offset : Byte) (s : State) :
    opBranch i flag want offset s =
      if flag (s.setPC (nextPC i s)) = want then
        .next ((s.setPC (branchTarget (nextPC i s) offset)).addCycles
          (cycleCost s.timing i false (branchExtra s.timing (nextPC i s) (branchTarget (nextPC i s) offset))))
      else .next ((s.setPC (nextPC i s)).addCycles (cycleCost s.timing i false 0)) := by
  unfold opBranch execute
  by_cases h : flag (s.setPC (nextPC i s)) = want <;> simp [h, bind, Except.bind, pure, Except.pure, finish]
  rfl

/-- What a flag instruction answers (R266 to R272). -/
theorem onStack_setBit (i : Instr) {k : Nat} (v : Bool) (hk : k ≤ 7) (s : State) :
    onStack i (fun t => t.setBit k v) s =
      .next (((s.setPC (nextPC i s)).setP (Flags.put s.p k v)).addCycles (cycleCost s.timing i false 0)) :=
  onStack_of_ok (State.setBit_eq _ v hk)

end Sys2Proof.Machine
end

