-- ==== Sys2Proof/Machine/Assembly.lean ====
section
/-! DEFINITION. The assembler form of an instruction (spec/30_encoding.md R101, R108). No step reads it. -/

namespace Sys2Proof.Machine

/-- A hexadecimal digit, upper case. -/
def hexDigit (n : Nat) : Char := if n < 10 then Char.ofNat (48 + n) else Char.ofNat (55 + n)

/-- `$nn` (R108). -/
def hexByte (v : Byte) : List Char := ['$', hexDigit (v.toNat / 16), hexDigit (v.toNat % 16)]

/-- `$nnnn` (R108). -/
def hexWord (w : Word) : List Char :=
  ['$', hexDigit (w.toNat / 4096), hexDigit (w.toNat / 256 % 16), hexDigit (w.toNat / 16 % 16), hexDigit (w.toNat % 16)]

/-- The operand form of each format: the last column of R101 (R108). -/
def modeText (am : AddressingMode) : List Char :=
  match am with
  | .accumulator => ['A']
  | .immediate v => '#' :: hexByte v
  | .zeroPage b => hexByte b
  | .zeroPageX b => hexByte b ++ [',', 'X']
  | .zeroPageY b => hexByte b ++ [',', 'Y']
  | .absolute w => hexWord w
  | .absoluteX w => hexWord w ++ [',', 'X']
  | .absoluteY w => hexWord w ++ [',', 'Y']
  | .indexedIndirect b => ['('] ++ hexByte b ++ [',', 'X', ')']
  | .indirectIndexed b => ['('] ++ hexByte b ++ [')', ',', 'Y']

/-- The operand text of an instruction at `pc0`; a branch shows its target address (R108). -/
def operandText (pc0 : Word) (o : Operand) : List Char :=
  match o with
  | .implied | .unassigned => []
  | .mode am => modeText am
  | .relative offset => hexWord (branchTarget (pc0 + 2#16) offset)
  | .indirect w => ['('] ++ hexWord w ++ [')']

/-- A mnemonic as the instruction table names it, upper case (R103, R106, R108). -/
def mnemonicText (m : Mnemonic) : String :=
  match m with
  | .lda => "LDA"
  | .ldx => "LDX"
  | .ldy => "LDY"
  | .sta => "STA"
  | .stx => "STX"
  | .sty => "STY"
  | .tax => "TAX"
  | .tay => "TAY"
  | .txa => "TXA"
  | .tya => "TYA"
  | .tsx => "TSX"
  | .txs => "TXS"
  | .adc => "ADC"
  | .sbc => "SBC"
  | .and => "AND"
  | .ora => "ORA"
  | .eor => "EOR"
  | .bit => "BIT"
  | .inc => "INC"
  | .dec => "DEC"
  | .inx => "INX"
  | .iny => "INY"
  | .dex => "DEX"
  | .dey => "DEY"
  | .asl => "ASL"
  | .lsr => "LSR"
  | .rol => "ROL"
  | .ror => "ROR"
  | .cmp => "CMP"
  | .cpx => "CPX"
  | .cpy => "CPY"
  | .bcc => "BCC"
  | .bcs => "BCS"
  | .beq => "BEQ"
  | .bne => "BNE"
  | .bmi => "BMI"
  | .bpl => "BPL"
  | .bvc => "BVC"
  | .bvs => "BVS"
  | .brk => "BRK"
  | .rti => "RTI"
  | .pha => "PHA"
  | .php => "PHP"
  | .pla => "PLA"
  | .plp => "PLP"
  | .clc => "CLC"
  | .sec => "SEC"
  | .cli => "CLI"
  | .sei => "SEI"
  | .cld => "CLD"
  | .sed => "SED"
  | .clv => "CLV"
  | .nop => "NOP"
  | .jmp => "JMP"
  | .jsr => "JSR"
  | .rts => "RTS"
  | .illegal => "ILLEGAL"

/-- The assembler line of an instruction at `pc0`: `MNEMONIC operand` (R108). -/
def assemblerLine (pc0 : Word) (i : Instr) : String :=
  let operand := operandText pc0 (operandOf i)
  if operand = [] then mnemonicText (mnemonicOf i)
  else mnemonicText (mnemonicOf i) ++ " " ++ String.ofList operand

/-- The offset an assembler computes for a branch at `pc0`: `target - (pc0 + 2)`, which must be in -128 to 127 (R108).
DEDUCED (notes/assumptions/12): the difference is taken mod 65536 as a signed number, as the branch itself wraps. -/
def branchOffset (pc0 target : Word) : Option Byte :=
  let d := (target - (pc0 + 2#16)).toInt
  if -128 ≤ d ∧ d ≤ 127 then some (BitVec.ofInt 8 d) else none

end Sys2Proof.Machine
end

