-- ==== Sys2Proof/Tests/Slice0.lean ====
section
/-! SUPPORT. Tests of the model: each expected result is the spec's own (spec/95_test_vectors.md, spec/30_encoding.md
R104), and witnesses that the hypotheses of the obligations can be met. -/

namespace Sys2Proof.Tests

set_option Elab.async false

open Sys2Proof.Machine Sys2Proof.Claims Sys2Proof.Safety

/-! ### Helpers -/

/-- The documented map with mirroring on and a cartridge of RAM, the convention of spec/95_test_vectors.md. -/
def documented : Config.MemMap := .documented true Config.ramCartridge

/-- Bytes put where the addresses read. -/
def withCells (s : State) : List (Word × Byte) → State
  | [] => s
  | (a, v) :: rest => withCells (s.place a v) rest

/-- The reset state with a map, registers, memory bytes and an instruction at PC. -/
def start (map : Config.MemMap) (pc : Word) (a x y sp p : Byte) (cells : List (Word × Byte)) (bytes : List Byte) : State :=
  withCells ((State.placeAll { State.reset with map := map, pc := pc, a := a, x := x, y := y, sp := sp, p := p } pc bytes)) cells

/-- Whether every listed address reads the listed byte. -/
def holds (s : State) (cells : List (Word × Byte)) : Bool :=
  cells.all fun c =>
    match s.load c.1 with
    | .ok v => v == c.2
    | .error _ => false

/-- Whether a step completed with these registers, this many cycles and these bytes in memory. -/
def ends (o : Host.Outcome State Fault Refusal) (pc : Word) (a x y sp p : Byte) (cycles : Nat)
    (cells : List (Word × Byte)) : Bool :=
  match o with
  | .next t =>
    t.pc == pc && t.a == a && t.x == x && t.y == y && t.sp == sp && t.p == p && t.cycles == cycles && holds t cells
  | _ => false

/-- Whether a step raised this fault. -/
def faults (o : Host.Outcome State Fault Refusal) (f : Fault) : Bool :=
  match o with
  | .fault g => g == f
  | _ => false

/-- Whether each list of bytes decodes to its instruction with nothing left, and is that instruction's encoding. -/
def decodesTo (rows : List (List Byte × Instr)) : Bool :=
  rows.all fun r =>
    encode r.2 == r.1 &&
    match decode r.1 with
    | .ok (i, rest) => i == r.2 && rest.isEmpty
    | .error _ => false

/-! ### Well-formedness -/

theorem test_wellFormed_refuses_assigned_opcode : (Instr.illegal 0xA9#8).wellFormed = false := by decide

theorem test_wellFormed_accepts : (Instr.illegal 0x02#8).wellFormed = true ∧ (Instr.ldaImm 0xFF#8).wellFormed = true := by
  decide

/-! ### Decoding: every row of R104 as words written out from the spec's table -/

theorem test_decode_lda : decodesTo [([0xA9#8, 0x9C#8], .ldaImm 0x9C#8), ([0xA5#8, 0x9C#8], .ldaZp 0x9C#8), ([0xB5#8, 0x9C#8], .ldaZpx 0x9C#8), ([0xAD#8, 0x34#8, 0xF2#8], .ldaAbs 0xF234#16), ([0xBD#8, 0x34#8, 0xF2#8], .ldaAbx 0xF234#16), ([0xB9#8, 0x34#8, 0xF2#8], .ldaAby 0xF234#16), ([0xA1#8, 0x9C#8], .ldaIzx 0x9C#8), ([0xB1#8, 0x9C#8], .ldaIzy 0x9C#8)] = true := by decide +kernel

theorem test_decode_ldx : decodesTo [([0xA2#8, 0x9C#8], .ldxImm 0x9C#8), ([0xA6#8, 0x9C#8], .ldxZp 0x9C#8), ([0xB6#8, 0x9C#8], .ldxZpy 0x9C#8), ([0xAE#8, 0x34#8, 0xF2#8], .ldxAbs 0xF234#16), ([0xBE#8, 0x34#8, 0xF2#8], .ldxAby 0xF234#16)] = true := by decide +kernel

theorem test_decode_ldy : decodesTo [([0xA0#8, 0x9C#8], .ldyImm 0x9C#8), ([0xA4#8, 0x9C#8], .ldyZp 0x9C#8), ([0xB4#8, 0x9C#8], .ldyZpx 0x9C#8), ([0xAC#8, 0x34#8, 0xF2#8], .ldyAbs 0xF234#16), ([0xBC#8, 0x34#8, 0xF2#8], .ldyAbx 0xF234#16)] = true := by decide +kernel

theorem test_decode_sta : decodesTo [([0x85#8, 0x9C#8], .staZp 0x9C#8), ([0x95#8, 0x9C#8], .staZpx 0x9C#8), ([0x8D#8, 0x34#8, 0xF2#8], .staAbs 0xF234#16), ([0x9D#8, 0x34#8, 0xF2#8], .staAbx 0xF234#16), ([0x99#8, 0x34#8, 0xF2#8], .staAby 0xF234#16), ([0x81#8, 0x9C#8], .staIzx 0x9C#8), ([0x91#8, 0x9C#8], .staIzy 0x9C#8)] = true := by decide +kernel

theorem test_decode_stx : decodesTo [([0x86#8, 0x9C#8], .stxZp 0x9C#8), ([0x96#8, 0x9C#8], .stxZpy 0x9C#8), ([0x8E#8, 0x34#8, 0xF2#8], .stxAbs 0xF234#16)] = true := by decide +kernel

theorem test_decode_sty : decodesTo [([0x84#8, 0x9C#8], .styZp 0x9C#8), ([0x94#8, 0x9C#8], .styZpx 0x9C#8), ([0x8C#8, 0x34#8, 0xF2#8], .styAbs 0xF234#16)] = true := by decide +kernel

theorem test_decode_tax : decodesTo [([0xAA#8], .tax)] = true := by decide +kernel

theorem test_decode_tay : decodesTo [([0xA8#8], .tay)] = true := by decide +kernel

theorem test_decode_txa : decodesTo [([0x8A#8], .txa)] = true := by decide +kernel

theorem test_decode_tya : decodesTo [([0x98#8], .tya)] = true := by decide +kernel

theorem test_decode_tsx : decodesTo [([0xBA#8], .tsx)] = true := by decide +kernel

theorem test_decode_txs : decodesTo [([0x9A#8], .txs)] = true := by decide +kernel

theorem test_decode_adc : decodesTo [([0x69#8, 0x9C#8], .adcImm 0x9C#8), ([0x65#8, 0x9C#8], .adcZp 0x9C#8), ([0x75#8, 0x9C#8], .adcZpx 0x9C#8), ([0x6D#8, 0x34#8, 0xF2#8], .adcAbs 0xF234#16), ([0x7D#8, 0x34#8, 0xF2#8], .adcAbx 0xF234#16), ([0x79#8, 0x34#8, 0xF2#8], .adcAby 0xF234#16), ([0x61#8, 0x9C#8], .adcIzx 0x9C#8), ([0x71#8, 0x9C#8], .adcIzy 0x9C#8)] = true := by decide +kernel

theorem test_decode_sbc : decodesTo [([0xE9#8, 0x9C#8], .sbcImm 0x9C#8), ([0xE5#8, 0x9C#8], .sbcZp 0x9C#8), ([0xF5#8, 0x9C#8], .sbcZpx 0x9C#8), ([0xED#8, 0x34#8, 0xF2#8], .sbcAbs 0xF234#16), ([0xFD#8, 0x34#8, 0xF2#8], .sbcAbx 0xF234#16), ([0xF9#8, 0x34#8, 0xF2#8], .sbcAby 0xF234#16), ([0xE1#8, 0x9C#8], .sbcIzx 0x9C#8), ([0xF1#8, 0x9C#8], .sbcIzy 0x9C#8)] = true := by decide +kernel

theorem test_decode_and : decodesTo [([0x29#8, 0x9C#8], .andImm 0x9C#8), ([0x25#8, 0x9C#8], .andZp 0x9C#8), ([0x35#8, 0x9C#8], .andZpx 0x9C#8), ([0x2D#8, 0x34#8, 0xF2#8], .andAbs 0xF234#16), ([0x3D#8, 0x34#8, 0xF2#8], .andAbx 0xF234#16), ([0x39#8, 0x34#8, 0xF2#8], .andAby 0xF234#16), ([0x21#8, 0x9C#8], .andIzx 0x9C#8), ([0x31#8, 0x9C#8], .andIzy 0x9C#8)] = true := by decide +kernel

theorem test_decode_ora : decodesTo [([0x09#8, 0x9C#8], .oraImm 0x9C#8), ([0x05#8, 0x9C#8], .oraZp 0x9C#8), ([0x15#8, 0x9C#8], .oraZpx 0x9C#8), ([0x0D#8, 0x34#8, 0xF2#8], .oraAbs 0xF234#16), ([0x1D#8, 0x34#8, 0xF2#8], .oraAbx 0xF234#16), ([0x19#8, 0x34#8, 0xF2#8], .oraAby 0xF234#16), ([0x01#8, 0x9C#8], .oraIzx 0x9C#8), ([0x11#8, 0x9C#8], .oraIzy 0x9C#8)] = true := by decide +kernel

theorem test_decode_eor : decodesTo [([0x49#8, 0x9C#8], .eorImm 0x9C#8), ([0x45#8, 0x9C#8], .eorZp 0x9C#8), ([0x55#8, 0x9C#8], .eorZpx 0x9C#8), ([0x4D#8, 0x34#8, 0xF2#8], .eorAbs 0xF234#16), ([0x5D#8, 0x34#8, 0xF2#8], .eorAbx 0xF234#16), ([0x59#8, 0x34#8, 0xF2#8], .eorAby 0xF234#16), ([0x41#8, 0x9C#8], .eorIzx 0x9C#8), ([0x51#8, 0x9C#8], .eorIzy 0x9C#8)] = true := by decide +kernel

theorem test_decode_bit : decodesTo [([0x24#8, 0x9C#8], .bitZp 0x9C#8), ([0x2C#8, 0x34#8, 0xF2#8], .bitAbs 0xF234#16)] = true := by decide +kernel

theorem test_decode_inc : decodesTo [([0xE6#8, 0x9C#8], .incZp 0x9C#8), ([0xF6#8, 0x9C#8], .incZpx 0x9C#8), ([0xEE#8, 0x34#8, 0xF2#8], .incAbs 0xF234#16), ([0xFE#8, 0x34#8, 0xF2#8], .incAbx 0xF234#16)] = true := by decide +kernel

theorem test_decode_dec : decodesTo [([0xC6#8, 0x9C#8], .decZp 0x9C#8), ([0xD6#8, 0x9C#8], .decZpx 0x9C#8), ([0xCE#8, 0x34#8, 0xF2#8], .decAbs 0xF234#16), ([0xDE#8, 0x34#8, 0xF2#8], .decAbx 0xF234#16)] = true := by decide +kernel

theorem test_decode_inx : decodesTo [([0xE8#8], .inx)] = true := by decide +kernel

theorem test_decode_iny : decodesTo [([0xC8#8], .iny)] = true := by decide +kernel

theorem test_decode_dex : decodesTo [([0xCA#8], .dex)] = true := by decide +kernel

theorem test_decode_dey : decodesTo [([0x88#8], .dey)] = true := by decide +kernel

theorem test_decode_asl : decodesTo [([0x0A#8], .aslAcc), ([0x06#8, 0x9C#8], .aslZp 0x9C#8), ([0x16#8, 0x9C#8], .aslZpx 0x9C#8), ([0x0E#8, 0x34#8, 0xF2#8], .aslAbs 0xF234#16), ([0x1E#8, 0x34#8, 0xF2#8], .aslAbx 0xF234#16)] = true := by decide +kernel

theorem test_decode_lsr : decodesTo [([0x4A#8], .lsrAcc), ([0x46#8, 0x9C#8], .lsrZp 0x9C#8), ([0x56#8, 0x9C#8], .lsrZpx 0x9C#8), ([0x4E#8, 0x34#8, 0xF2#8], .lsrAbs 0xF234#16), ([0x5E#8, 0x34#8, 0xF2#8], .lsrAbx 0xF234#16)] = true := by decide +kernel

theorem test_decode_rol : decodesTo [([0x2A#8], .rolAcc), ([0x26#8, 0x9C#8], .rolZp 0x9C#8), ([0x36#8, 0x9C#8], .rolZpx 0x9C#8), ([0x2E#8, 0x34#8, 0xF2#8], .rolAbs 0xF234#16), ([0x3E#8, 0x34#8, 0xF2#8], .rolAbx 0xF234#16)] = true := by decide +kernel

theorem test_decode_ror : decodesTo [([0x6A#8], .rorAcc), ([0x66#8, 0x9C#8], .rorZp 0x9C#8), ([0x76#8, 0x9C#8], .rorZpx 0x9C#8), ([0x6E#8, 0x34#8, 0xF2#8], .rorAbs 0xF234#16), ([0x7E#8, 0x34#8, 0xF2#8], .rorAbx 0xF234#16)] = true := by decide +kernel

theorem test_decode_cmp : decodesTo [([0xC9#8, 0x9C#8], .cmpImm 0x9C#8), ([0xC5#8, 0x9C#8], .cmpZp 0x9C#8), ([0xD5#8, 0x9C#8], .cmpZpx 0x9C#8), ([0xCD#8, 0x34#8, 0xF2#8], .cmpAbs 0xF234#16), ([0xDD#8, 0x34#8, 0xF2#8], .cmpAbx 0xF234#16), ([0xD9#8, 0x34#8, 0xF2#8], .cmpAby 0xF234#16), ([0xC1#8, 0x9C#8], .cmpIzx 0x9C#8), ([0xD1#8, 0x9C#8], .cmpIzy 0x9C#8)] = true := by decide +kernel

theorem test_decode_cpx : decodesTo [([0xE0#8, 0x9C#8], .cpxImm 0x9C#8), ([0xE4#8, 0x9C#8], .cpxZp 0x9C#8), ([0xEC#8, 0x34#8, 0xF2#8], .cpxAbs 0xF234#16)] = true := by decide +kernel

theorem test_decode_cpy : decodesTo [([0xC0#8, 0x9C#8], .cpyImm 0x9C#8), ([0xC4#8, 0x9C#8], .cpyZp 0x9C#8), ([0xCC#8, 0x34#8, 0xF2#8], .cpyAbs 0xF234#16)] = true := by decide +kernel

theorem test_decode_bcc : decodesTo [([0x90#8, 0x9C#8], .bcc 0x9C#8)] = true := by decide +kernel

theorem test_decode_bcs : decodesTo [([0xB0#8, 0x9C#8], .bcs 0x9C#8)] = true := by decide +kernel

theorem test_decode_beq : decodesTo [([0xF0#8, 0x9C#8], .beq 0x9C#8)] = true := by decide +kernel

theorem test_decode_bne : decodesTo [([0xD0#8, 0x9C#8], .bne 0x9C#8)] = true := by decide +kernel

theorem test_decode_bmi : decodesTo [([0x30#8, 0x9C#8], .bmi 0x9C#8)] = true := by decide +kernel

theorem test_decode_bpl : decodesTo [([0x10#8, 0x9C#8], .bpl 0x9C#8)] = true := by decide +kernel

theorem test_decode_bvc : decodesTo [([0x50#8, 0x9C#8], .bvc 0x9C#8)] = true := by decide +kernel

theorem test_decode_bvs : decodesTo [([0x70#8, 0x9C#8], .bvs 0x9C#8)] = true := by decide +kernel

theorem test_decode_brk : decodesTo [([0x00#8], .brk)] = true := by decide +kernel

theorem test_decode_rti : decodesTo [([0x40#8], .rti)] = true := by decide +kernel

theorem test_decode_pha : decodesTo [([0x48#8], .pha)] = true := by decide +kernel

theorem test_decode_php : decodesTo [([0x08#8], .php)] = true := by decide +kernel

theorem test_decode_pla : decodesTo [([0x68#8], .pla)] = true := by decide +kernel

theorem test_decode_plp : decodesTo [([0x28#8], .plp)] = true := by decide +kernel

theorem test_decode_clc : decodesTo [([0x18#8], .clc)] = true := by decide +kernel

theorem test_decode_sec : decodesTo [([0x38#8], .sec)] = true := by decide +kernel

theorem test_decode_cli : decodesTo [([0x58#8], .cli)] = true := by decide +kernel

theorem test_decode_sei : decodesTo [([0x78#8], .sei)] = true := by decide +kernel

theorem test_decode_cld : decodesTo [([0xD8#8], .cld)] = true := by decide +kernel

theorem test_decode_sed : decodesTo [([0xF8#8], .sed)] = true := by decide +kernel

theorem test_decode_clv : decodesTo [([0xB8#8], .clv)] = true := by decide +kernel

theorem test_decode_nop : decodesTo [([0xEA#8], .nop)] = true := by decide +kernel

theorem test_decode_jmp : decodesTo [([0x4C#8, 0x34#8, 0xF2#8], .jmpAbs 0xF234#16), ([0x6C#8, 0x34#8, 0xF2#8], .jmpInd 0xF234#16)] = true := by decide +kernel

theorem test_decode_jsr : decodesTo [([0x20#8, 0x34#8, 0xF2#8], .jsr 0xF234#16)] = true := by decide +kernel

theorem test_decode_rts : decodesTo [([0x60#8], .rts)] = true := by decide +kernel

theorem test_decode_illegal :
    ([0x02#8, 0x03#8, 0x04#8, 0x07#8, 0x0B#8, 0x0C#8, 0x0F#8, 0x12#8, 0x13#8, 0x14#8, 0x17#8, 0x1A#8, 0x1B#8, 0x1C#8, 0x1F#8] ++
     [0x22#8, 0x23#8, 0x27#8, 0x2B#8, 0x2F#8, 0x32#8, 0x33#8, 0x34#8, 0x37#8, 0x3A#8, 0x3B#8, 0x3C#8, 0x3F#8, 0x42#8, 0x43#8] ++
     [0x44#8, 0x47#8, 0x4B#8, 0x4F#8, 0x52#8, 0x53#8, 0x54#8, 0x57#8, 0x5A#8, 0x5B#8, 0x5C#8, 0x5F#8, 0x62#8, 0x63#8, 0x64#8] ++
     [0x67#8, 0x6B#8, 0x6F#8, 0x72#8, 0x73#8, 0x74#8, 0x77#8, 0x7A#8, 0x7B#8, 0x7C#8, 0x7F#8, 0x80#8, 0x82#8, 0x83#8, 0x87#8] ++
     [0x89#8, 0x8B#8, 0x8F#8, 0x92#8, 0x93#8, 0x97#8, 0x9B#8, 0x9C#8, 0x9E#8, 0x9F#8, 0xA3#8, 0xA7#8, 0xAB#8, 0xAF#8, 0xB2#8] ++
     [0xB3#8, 0xB7#8, 0xBB#8, 0xBF#8, 0xC2#8, 0xC3#8, 0xC7#8, 0xCB#8, 0xCF#8, 0xD2#8, 0xD3#8, 0xD4#8, 0xD7#8, 0xDA#8, 0xDB#8] ++
     [0xDC#8, 0xDF#8, 0xE2#8, 0xE3#8, 0xE7#8, 0xEB#8, 0xEF#8, 0xF2#8, 0xF3#8, 0xF4#8, 0xF7#8, 0xFA#8, 0xFB#8, 0xFC#8, 0xFF#8]).all (fun op => decodesTo [([op], .illegal op)]) = true := by decide +kernel

/-! ### Derived vectors of spec/95_test_vectors.md, one step each -/

/-- V1: LDA #0: Z=1. -/
theorem test_lda_imm_V1 :
    ends (step (start documented 0x0600#16 0x00#8 0x00#8 0x00#8 0xFF#8 0x20#8
      [] [0xA9#8, 0x00#8]))
      0x0602#16 0x00#8 0x00#8 0x00#8 0xFF#8 0x22#8 2 [] = true := by decide +kernel

/-- V2: LDA #$80: N=1. -/
theorem test_lda_imm_V2 :
    ends (step (start documented 0x0600#16 0x00#8 0x00#8 0x00#8 0xFF#8 0x22#8
      [] [0xA9#8, 0x80#8]))
      0x0602#16 0x80#8 0x00#8 0x00#8 0xFF#8 0xA0#8 2 [] = true := by decide +kernel

/-- V3: LDA zp. -/
theorem test_lda_zp_V3 :
    ends (step (start documented 0x0600#16 0x00#8 0x00#8 0x00#8 0xFF#8 0x20#8
      [(0x0010#16, 0x7F#8)] [0xA5#8, 0x10#8]))
      0x0602#16 0x7F#8 0x00#8 0x00#8 0xFF#8 0x20#8 3 [] = true := by decide +kernel

/-- V4: LDA zp,X wraps in page 0: reads 0x0010 not 0x0110. -/
theorem test_lda_zpx_V4 :
    ends (step (start documented 0x0600#16 0x00#8 0x20#8 0x00#8 0xFF#8 0x20#8
      [(0x0010#16, 0x55#8), (0x0110#16, 0xAA#8)] [0xB5#8, 0xF0#8]))
      0x0602#16 0x55#8 0x20#8 0x00#8 0xFF#8 0x20#8 4 [] = true := by decide +kernel

/-- V5: LDX zp,Y wraps: 0xFF+2 -> 0x0001. -/
theorem test_ldx_zpy_V5 :
    ends (step (start documented 0x0600#16 0x00#8 0x00#8 0x02#8 0xFF#8 0x20#8
      [(0x0001#16, 0x99#8), (0x0101#16, 0x11#8)] [0xB6#8, 0xFF#8]))
      0x0602#16 0x00#8 0x99#8 0x02#8 0xFF#8 0xA0#8 4 [] = true := by decide +kernel

/-- V6: LDA abs, little-endian operand. -/
theorem test_lda_abs_V6 :
    ends (step (start documented 0x0600#16 0x00#8 0x00#8 0x00#8 0xFF#8 0x20#8
      [(0x0234#16, 0x01#8), (0x3402#16, 0xEE#8)] [0xAD#8, 0x34#8, 0x02#8]))
      0x0603#16 0x01#8 0x00#8 0x00#8 0xFF#8 0x20#8 4 [] = true := by decide +kernel

/-- V7: LDA abs,X page cross: +1 cycle. -/
theorem test_lda_abx_V7 :
    ends (step (start documented 0x0600#16 0x00#8 0x01#8 0x00#8 0xFF#8 0x20#8
      [(0x0300#16, 0x42#8)] [0xBD#8, 0xFF#8, 0x02#8]))
      0x0603#16 0x42#8 0x01#8 0x00#8 0xFF#8 0x20#8 5 [] = true := by decide +kernel

/-- V8: LDA abs,X no cross. -/
theorem test_lda_abx_V8 :
    ends (step (start documented 0x0600#16 0x00#8 0x01#8 0x00#8 0xFF#8 0x20#8
      [(0x02F1#16, 0x42#8)] [0xBD#8, 0xF0#8, 0x02#8]))
      0x0603#16 0x42#8 0x01#8 0x00#8 0xFF#8 0x20#8 4 [] = true := by decide +kernel

/-- V9: LDA abs,Y wraps 0xFFFF+2 -> 0x0001, counted as page cross. -/
theorem test_lda_aby_V9 :
    ends (step (start documented 0x0600#16 0x00#8 0x00#8 0x02#8 0xFF#8 0x20#8
      [(0x0001#16, 0x33#8)] [0xB9#8, 0xFF#8, 0xFF#8]))
      0x0603#16 0x33#8 0x00#8 0x02#8 0xFF#8 0x20#8 5 [] = true := by decide +kernel

/-- V10: LDA (zp,X): the source example, reads M[0x0001]. -/
theorem test_lda_izx_V10 :
    ends (step (start documented 0x0600#16 0x00#8 0x00#8 0x00#8 0xFF#8 0x20#8
      [(0x0001#16, 0x77#8), (0x00A5#16, 0x01#8), (0x00A6#16, 0x00#8)] [0xA1#8, 0xA5#8]))
      0x0602#16 0x77#8 0x00#8 0x00#8 0xFF#8 0x20#8 6 [] = true := by decide +kernel

/-- V11: LDA (zp,X) pointer at 0xFF: high byte from 0x0000. -/
theorem test_lda_izx_V11 :
    ends (step (start documented 0x0600#16 0x00#8 0x01#8 0x00#8 0xFF#8 0x20#8
      [(0x0000#16, 0x02#8), (0x00FF#16, 0x34#8), (0x0100#16, 0x07#8), (0x0234#16, 0x5A#8), (0x0734#16, 0xA5#8)] [0xA1#8, 0xFE#8]))
      0x0602#16 0x5A#8 0x01#8 0x00#8 0xFF#8 0x20#8 6 [] = true := by decide +kernel

/-- V13: LDA (zp),Y page cross: +1 cycle. -/
theorem test_lda_izy_V13 :
    ends (step (start documented 0x0600#16 0x00#8 0x00#8 0x02#8 0xFF#8 0x20#8
      [(0x0030#16, 0xFF#8), (0x0031#16, 0x06#8), (0x0701#16, 0x80#8)] [0xB1#8, 0x30#8]))
      0x0602#16 0x80#8 0x00#8 0x02#8 0xFF#8 0xA0#8 6 [] = true := by decide +kernel

/-- V14: LDA (zp),Y pointer at 0xFF: high byte from 0x0000 (D25). -/
theorem test_lda_izy_V14 :
    ends (step (start documented 0x0600#16 0x00#8 0x00#8 0x00#8 0xFF#8 0x20#8
      [(0x0000#16, 0x02#8), (0x00FF#16, 0x34#8), (0x0100#16, 0x07#8), (0x0234#16, 0x5A#8), (0x0734#16, 0xA5#8)] [0xB1#8, 0xFF#8]))
      0x0602#16 0x5A#8 0x00#8 0x00#8 0xFF#8 0x20#8 5 [] = true := by decide +kernel

/-- V15: LDX #0. -/
theorem test_ldx_imm_V15 :
    ends (step (start documented 0x0600#16 0x00#8 0x00#8 0x00#8 0xFF#8 0xA0#8
      [] [0xA2#8, 0x00#8]))
      0x0602#16 0x00#8 0x00#8 0x00#8 0xFF#8 0x22#8 2 [] = true := by decide +kernel

/-- V16: LDY #$FF. -/
theorem test_ldy_imm_V16 :
    ends (step (start documented 0x0600#16 0x00#8 0x00#8 0x00#8 0xFF#8 0x20#8
      [] [0xA0#8, 0xFF#8]))
      0x0602#16 0x00#8 0x00#8 0xFF#8 0xFF#8 0xA0#8 2 [] = true := by decide +kernel

/-- V17: STA zp: no flags. -/
theorem test_sta_zp_V17 :
    ends (step (start documented 0x0600#16 0x00#8 0x00#8 0x00#8 0xFF#8 0xA0#8
      [] [0x85#8, 0x10#8]))
      0x0602#16 0x00#8 0x00#8 0x00#8 0xFF#8 0xA0#8 3 [(0x0010#16, 0x00#8)] = true := by decide +kernel

/-- V18: STA abs,X: 5 cycles always, no page penalty. -/
theorem test_sta_abx_V18 :
    ends (step (start documented 0x0600#16 0x12#8 0x01#8 0x00#8 0xFF#8 0x20#8
      [] [0x9D#8, 0xFF#8, 0x02#8]))
      0x0603#16 0x12#8 0x01#8 0x00#8 0xFF#8 0x20#8 5 [(0x0300#16, 0x12#8)] = true := by decide +kernel

/-- V19: STA (zp),Y: 6 cycles always. -/
theorem test_sta_izy_V19 :
    ends (step (start documented 0x0600#16 0x12#8 0x00#8 0x10#8 0xFF#8 0x20#8
      [(0x0032#16, 0xF8#8), (0x0033#16, 0x06#8)] [0x91#8, 0x32#8]))
      0x0602#16 0x12#8 0x00#8 0x10#8 0xFF#8 0x20#8 6 [(0x0708#16, 0x12#8)] = true := by decide +kernel

/-- V20: STX zp,Y wrap. -/
theorem test_stx_zpy_V20 :
    ends (step (start documented 0x0600#16 0x00#8 0x77#8 0x90#8 0xFF#8 0x20#8
      [] [0x96#8, 0x80#8]))
      0x0602#16 0x00#8 0x77#8 0x90#8 0xFF#8 0x20#8 4 [(0x0010#16, 0x77#8)] = true := by decide +kernel

/-- V21: STY abs at top of RAM. -/
theorem test_sty_abs_V21 :
    ends (step (start documented 0x0600#16 0x00#8 0x00#8 0x44#8 0xFF#8 0x20#8
      [] [0x8C#8, 0xFF#8, 0x07#8]))
      0x0603#16 0x00#8 0x00#8 0x44#8 0xFF#8 0x20#8 4 [(0x07FF#16, 0x44#8)] = true := by decide +kernel

/-- V22: STA $0800 with RAM_MIRRORING=true lands in 0x0000. -/
theorem test_sta_abs_V22 :
    ends (step (start documented 0x0600#16 0x66#8 0x00#8 0x00#8 0xFF#8 0x20#8
      [] [0x8D#8, 0x00#8, 0x08#8]))
      0x0603#16 0x66#8 0x00#8 0x00#8 0xFF#8 0x20#8 4 [(0x0000#16, 0x66#8)] = true := by decide +kernel

/-- V23: TAX. -/
theorem test_tax_imp_V23 :
    ends (step (start documented 0x0600#16 0x80#8 0x00#8 0x00#8 0xFF#8 0x20#8
      [] [0xAA#8]))
      0x0601#16 0x80#8 0x80#8 0x00#8 0xFF#8 0xA0#8 2 [] = true := by decide +kernel

/-- V24: TAY zero. -/
theorem test_tay_imp_V24 :
    ends (step (start documented 0x0600#16 0x00#8 0x00#8 0x55#8 0xFF#8 0x20#8
      [] [0xA8#8]))
      0x0601#16 0x00#8 0x00#8 0x00#8 0xFF#8 0x22#8 2 [] = true := by decide +kernel

/-- V25: TXA. -/
theorem test_txa_imp_V25 :
    ends (step (start documented 0x0600#16 0xFF#8 0x7F#8 0x00#8 0xFF#8 0xA0#8
      [] [0x8A#8]))
      0x0601#16 0x7F#8 0x7F#8 0x00#8 0xFF#8 0x20#8 2 [] = true := by decide +kernel

/-- V26: TYA. -/
theorem test_tya_imp_V26 :
    ends (step (start documented 0x0600#16 0x01#8 0x00#8 0x00#8 0xFF#8 0x20#8
      [] [0x98#8]))
      0x0601#16 0x00#8 0x00#8 0x00#8 0xFF#8 0x22#8 2 [] = true := by decide +kernel

/-- V27: TSX sets Z,N from SP. -/
theorem test_tsx_imp_V27 :
    ends (step (start documented 0x0600#16 0x00#8 0x00#8 0x00#8 0xFD#8 0x20#8
      [] [0xBA#8]))
      0x0601#16 0x00#8 0xFD#8 0x00#8 0xFD#8 0xA0#8 2 [] = true := by decide +kernel

/-- V28: TXS writes no flag. -/
theorem test_txs_imp_V28 :
    ends (step (start documented 0x0600#16 0x00#8 0x00#8 0x00#8 0xFF#8 0xA0#8
      [] [0x9A#8]))
      0x0601#16 0x00#8 0x00#8 0x00#8 0x00#8 0xA0#8 2 [] = true := by decide +kernel

/-- V31: carry-in counted: 0xFF+1+1 -> 0x01 C=1. -/
theorem test_adc_imm_V31 :
    ends (step (start documented 0x0600#16 0xFF#8 0x00#8 0x00#8 0xFF#8 0x21#8
      [] [0x69#8, 0x01#8]))
      0x0602#16 0x01#8 0x00#8 0x00#8 0xFF#8 0x21#8 2 [] = true := by decide +kernel

/-- V33: 0x80+0x80 -> 0x00 C=1 V=1 Z=1. -/
theorem test_adc_imm_V33 :
    ends (step (start documented 0x0600#16 0x80#8 0x00#8 0x00#8 0xFF#8 0x20#8
      [] [0x69#8, 0x80#8]))
      0x0602#16 0x00#8 0x00#8 0x00#8 0xFF#8 0x63#8 2 [] = true := by decide +kernel

/-- V36: 0x50-0x70 with C=1 -> 0xE0 C=0 (borrow) V=0. -/
theorem test_sbc_imm_V36 :
    ends (step (start documented 0x0600#16 0x50#8 0x00#8 0x00#8 0xFF#8 0x21#8
      [] [0xE9#8, 0x70#8]))
      0x0602#16 0xE0#8 0x00#8 0x00#8 0xFF#8 0xA0#8 2 [] = true := by decide +kernel

/-- V37: 0x80-1 -> 0x7F V=1 C=1. -/
theorem test_sbc_imm_V37 :
    ends (step (start documented 0x0600#16 0x80#8 0x00#8 0x00#8 0xFF#8 0x21#8
      [] [0xE9#8, 0x01#8]))
      0x0602#16 0x7F#8 0x00#8 0x00#8 0xFF#8 0x61#8 2 [] = true := by decide +kernel

/-- V41: AND. -/
theorem test_and_imm_V41 :
    ends (step (start documented 0x0600#16 0xF0#8 0x00#8 0x00#8 0xFF#8 0x20#8
      [] [0x29#8, 0x0F#8]))
      0x0602#16 0x00#8 0x00#8 0x00#8 0xFF#8 0x22#8 2 [] = true := by decide +kernel

/-- V42: ORA. -/
theorem test_ora_imm_V42 :
    ends (step (start documented 0x0600#16 0x01#8 0x00#8 0x00#8 0xFF#8 0x20#8
      [] [0x09#8, 0x80#8]))
      0x0602#16 0x81#8 0x00#8 0x00#8 0xFF#8 0xA0#8 2 [] = true := by decide +kernel

/-- V43: EOR. -/
theorem test_eor_imm_V43 :
    ends (step (start documented 0x0600#16 0xFF#8 0x00#8 0x00#8 0xFF#8 0x20#8
      [] [0x49#8, 0xFF#8]))
      0x0602#16 0x00#8 0x00#8 0x00#8 0xFF#8 0x22#8 2 [] = true := by decide +kernel

/-- V44: BIT: N,V from memory bits 7,6; Z from A AND M; A unchanged. -/
theorem test_bit_zp_V44 :
    ends (step (start documented 0x0600#16 0x01#8 0x00#8 0x00#8 0xFF#8 0x20#8
      [(0x0010#16, 0xC0#8)] [0x24#8, 0x10#8]))
      0x0602#16 0x01#8 0x00#8 0x00#8 0xFF#8 0xE2#8 3 [] = true := by decide +kernel

/-- V45: BIT abs: Z=0, N=0, V=0 clears old N,V. -/
theorem test_bit_abs_V45 :
    ends (step (start documented 0x0600#16 0xFF#8 0x00#8 0x00#8 0xFF#8 0xE2#8
      [(0x0300#16, 0x3F#8)] [0x2C#8, 0x00#8, 0x03#8]))
      0x0603#16 0xFF#8 0x00#8 0x00#8 0xFF#8 0x20#8 4 [] = true := by decide +kernel

/-- V46: INC wraps 0xFF -> 0x00, C untouched. -/
theorem test_inc_zp_V46 :
    ends (step (start documented 0x0600#16 0x00#8 0x00#8 0x00#8 0xFF#8 0x21#8
      [(0x0010#16, 0xFF#8)] [0xE6#8, 0x10#8]))
      0x0602#16 0x00#8 0x00#8 0x00#8 0xFF#8 0x23#8 5 [(0x0010#16, 0x00#8)] = true := by decide +kernel

/-- V47: DEC wraps 0x00 -> 0xFF. -/
theorem test_dec_zp_V47 :
    ends (step (start documented 0x0600#16 0x00#8 0x00#8 0x00#8 0xFF#8 0x20#8
      [(0x0010#16, 0x00#8)] [0xC6#8, 0x10#8]))
      0x0602#16 0x00#8 0x00#8 0x00#8 0xFF#8 0xA0#8 5 [(0x0010#16, 0xFF#8)] = true := by decide +kernel

/-- V48: INC abs,X: 7 cycles always. -/
theorem test_inc_abx_V48 :
    ends (step (start documented 0x0600#16 0x00#8 0x01#8 0x00#8 0xFF#8 0x20#8
      [(0x0300#16, 0x7F#8)] [0xFE#8, 0xFF#8, 0x02#8]))
      0x0603#16 0x00#8 0x01#8 0x00#8 0xFF#8 0xA0#8 7 [(0x0300#16, 0x80#8)] = true := by decide +kernel

/-- V49: INX wrap. -/
theorem test_inx_imp_V49 :
    ends (step (start documented 0x0600#16 0x00#8 0xFF#8 0x00#8 0xFF#8 0x20#8
      [] [0xE8#8]))
      0x0601#16 0x00#8 0x00#8 0x00#8 0xFF#8 0x22#8 2 [] = true := by decide +kernel

/-- V50: INY. -/
theorem test_iny_imp_V50 :
    ends (step (start documented 0x0600#16 0x00#8 0x00#8 0x7F#8 0xFF#8 0x20#8
      [] [0xC8#8]))
      0x0601#16 0x00#8 0x00#8 0x80#8 0xFF#8 0xA0#8 2 [] = true := by decide +kernel

/-- V51: DEX wrap. -/
theorem test_dex_imp_V51 :
    ends (step (start documented 0x0600#16 0x00#8 0x00#8 0x00#8 0xFF#8 0x20#8
      [] [0xCA#8]))
      0x0601#16 0x00#8 0xFF#8 0x00#8 0xFF#8 0xA0#8 2 [] = true := by decide +kernel

/-- V52: DEY to zero. -/
theorem test_dey_imp_V52 :
    ends (step (start documented 0x0600#16 0x00#8 0x00#8 0x01#8 0xFF#8 0x20#8
      [] [0x88#8]))
      0x0601#16 0x00#8 0x00#8 0x00#8 0xFF#8 0x22#8 2 [] = true := by decide +kernel

/-- V60: ASL A: carry taken from bit 7 before the shift. -/
theorem test_asl_acc_V60 :
    ends (step (start documented 0x0600#16 0x81#8 0x00#8 0x00#8 0xFF#8 0x20#8
      [] [0x0A#8]))
      0x0601#16 0x02#8 0x00#8 0x00#8 0xFF#8 0x21#8 2 [] = true := by decide +kernel

/-- V61: ASL A: 0x80 -> 0x00 Z=1 C=1. -/
theorem test_asl_acc_V61 :
    ends (step (start documented 0x0600#16 0x80#8 0x00#8 0x00#8 0xFF#8 0x20#8
      [] [0x0A#8]))
      0x0601#16 0x00#8 0x00#8 0x00#8 0xFF#8 0x23#8 2 [] = true := by decide +kernel

/-- V62: LSR A: 0x01 -> 0 C=1 Z=1; N always 0. -/
theorem test_lsr_acc_V62 :
    ends (step (start documented 0x0600#16 0x01#8 0x00#8 0x00#8 0xFF#8 0xA0#8
      [] [0x4A#8]))
      0x0601#16 0x00#8 0x00#8 0x00#8 0xFF#8 0x23#8 2 [] = true := by decide +kernel

/-- V63: ROL A: old C enters bit 0. -/
theorem test_rol_acc_V63 :
    ends (step (start documented 0x0600#16 0x80#8 0x00#8 0x00#8 0xFF#8 0x21#8
      [] [0x2A#8]))
      0x0601#16 0x01#8 0x00#8 0x00#8 0xFF#8 0x21#8 2 [] = true := by decide +kernel

/-- V64: ROL A with C=0. -/
theorem test_rol_acc_V64 :
    ends (step (start documented 0x0600#16 0x40#8 0x00#8 0x00#8 0xFF#8 0x20#8
      [] [0x2A#8]))
      0x0601#16 0x80#8 0x00#8 0x00#8 0xFF#8 0xA0#8 2 [] = true := by decide +kernel

/-- V65: ROR A: old C enters bit 7. -/
theorem test_ror_acc_V65 :
    ends (step (start documented 0x0600#16 0x01#8 0x00#8 0x00#8 0xFF#8 0x21#8
      [] [0x6A#8]))
      0x0601#16 0x80#8 0x00#8 0x00#8 0xFF#8 0xA1#8 2 [] = true := by decide +kernel

/-- V66: ROR A with C=0: 0x01 -> 0x00 C=1 Z=1. -/
theorem test_ror_acc_V66 :
    ends (step (start documented 0x0600#16 0x01#8 0x00#8 0x00#8 0xFF#8 0x20#8
      [] [0x6A#8]))
      0x0601#16 0x00#8 0x00#8 0x00#8 0xFF#8 0x23#8 2 [] = true := by decide +kernel

/-- V67: ASL zp read-modify-write. -/
theorem test_asl_zp_V67 :
    ends (step (start documented 0x0600#16 0x00#8 0x00#8 0x00#8 0xFF#8 0x20#8
      [(0x0020#16, 0x41#8)] [0x06#8, 0x20#8]))
      0x0602#16 0x00#8 0x00#8 0x00#8 0xFF#8 0xA0#8 5 [(0x0020#16, 0x82#8)] = true := by decide +kernel

/-- V68: LSR abs,X: 7 cycles. -/
theorem test_lsr_abx_V68 :
    ends (step (start documented 0x0600#16 0x00#8 0x01#8 0x00#8 0xFF#8 0x20#8
      [(0x0300#16, 0xFF#8)] [0x5E#8, 0xFF#8, 0x02#8]))
      0x0603#16 0x00#8 0x01#8 0x00#8 0xFF#8 0x21#8 7 [(0x0300#16, 0x7F#8)] = true := by decide +kernel

/-- V69: ROL zp,X wraps. -/
theorem test_rol_zpx_V69 :
    ends (step (start documented 0x0600#16 0x00#8 0x20#8 0x00#8 0xFF#8 0x21#8
      [(0x0010#16, 0x7F#8)] [0x36#8, 0xF0#8]))
      0x0602#16 0x00#8 0x20#8 0x00#8 0xFF#8 0xA0#8 6 [(0x0010#16, 0xFF#8)] = true := by decide +kernel

/-- V70: ROR abs. -/
theorem test_ror_abs_V70 :
    ends (step (start documented 0x0600#16 0x00#8 0x00#8 0x00#8 0xFF#8 0x21#8
      [(0x0300#16, 0xFE#8)] [0x6E#8, 0x00#8, 0x03#8]))
      0x0603#16 0x00#8 0x00#8 0x00#8 0xFF#8 0xA0#8 6 [(0x0300#16, 0xFF#8)] = true := by decide +kernel

/-- V81: less: C=0 N=1 (0xF0). -/
theorem test_cmp_imm_V81 :
    ends (step (start documented 0x0600#16 0x10#8 0x00#8 0x00#8 0xFF#8 0x20#8
      [] [0xC9#8, 0x20#8]))
      0x0602#16 0x10#8 0x00#8 0x00#8 0xFF#8 0xA0#8 2 [] = true := by decide +kernel

/-- V84: 0x80 vs 0x00: C=1 N=1; V untouched. -/
theorem test_cmp_imm_V84 :
    ends (step (start documented 0x0600#16 0x80#8 0x00#8 0x00#8 0xFF#8 0x60#8
      [] [0xC9#8, 0x00#8]))
      0x0602#16 0x80#8 0x00#8 0x00#8 0xFF#8 0xE1#8 2 [] = true := by decide +kernel

/-- V85: CPX. -/
theorem test_cpx_imm_V85 :
    ends (step (start documented 0x0600#16 0x00#8 0x03#8 0x00#8 0xFF#8 0x20#8
      [] [0xE0#8, 0x03#8]))
      0x0602#16 0x00#8 0x03#8 0x00#8 0xFF#8 0x23#8 2 [] = true := by decide +kernel

/-- V86: CPY zp. -/
theorem test_cpy_zp_V86 :
    ends (step (start documented 0x0600#16 0x00#8 0x00#8 0x01#8 0xFF#8 0x20#8
      [(0x0010#16, 0x02#8)] [0xC4#8, 0x10#8]))
      0x0602#16 0x00#8 0x00#8 0x01#8 0xFF#8 0xA0#8 3 [] = true := by decide +kernel

/-- V90: BNE taken backward, same page. -/
theorem test_bne_rel_V90 :
    ends (step (start documented 0x060A#16 0x00#8 0x00#8 0x00#8 0xFF#8 0x20#8
      [] [0xD0#8, 0xF8#8]))
      0x0604#16 0x00#8 0x00#8 0x00#8 0xFF#8 0x20#8 3 [] = true := by decide +kernel

/-- V91: BNE not taken. -/
theorem test_bne_rel_V91 :
    ends (step (start documented 0x060A#16 0x00#8 0x00#8 0x00#8 0xFF#8 0x22#8
      [] [0xD0#8, 0xF8#8]))
      0x060C#16 0x00#8 0x00#8 0x00#8 0xFF#8 0x22#8 2 [] = true := by decide +kernel

/-- V92: BEQ taken, page cross: 4 cycles. -/
theorem test_beq_rel_V92 :
    ends (step (start documented 0x06F0#16 0x00#8 0x00#8 0x00#8 0xFF#8 0x22#8
      [] [0xF0#8, 0x10#8]))
      0x0702#16 0x00#8 0x00#8 0x00#8 0xFF#8 0x22#8 4 [] = true := by decide +kernel

/-- V93: BVS offset 0x80 = -128 from pc_next 0x0602. -/
theorem test_bvs_rel_V93 :
    ends (step (start documented 0x0600#16 0x00#8 0x00#8 0x00#8 0xFF#8 0x60#8
      [] [0x70#8, 0x80#8]))
      0x0582#16 0x00#8 0x00#8 0x00#8 0xFF#8 0x60#8 4 [] = true := by decide +kernel

/-- V94: flat MEM. The source example read as pc_next=0x4020: 0x3FA0 (90_conflicts.md C1). -/
theorem test_bcc_rel_V94 :
    ends (step (start Config.flat 0x401E#16 0x00#8 0x00#8 0x00#8 0xFF#8 0x20#8
      [] [0x90#8, 0x80#8]))
      0x3FA0#16 0x00#8 0x00#8 0x00#8 0xFF#8 0x20#8 4 [] = true := by decide +kernel

/-- V96: BPL to itself. -/
theorem test_bpl_rel_V96 :
    ends (step (start documented 0x0600#16 0x00#8 0x00#8 0x00#8 0xFF#8 0x20#8
      [] [0x10#8, 0xFE#8]))
      0x0600#16 0x00#8 0x00#8 0x00#8 0xFF#8 0x20#8 3 [] = true := by decide +kernel

/-- V97: BMI +127. -/
theorem test_bmi_rel_V97 :
    ends (step (start documented 0x0600#16 0x00#8 0x00#8 0x00#8 0xFF#8 0xA0#8
      [] [0x30#8, 0x7F#8]))
      0x0681#16 0x00#8 0x00#8 0x00#8 0xFF#8 0xA0#8 3 [] = true := by decide +kernel

/-- V98: BCS offset 0 taken: PC=pc_next, 3 cycles. -/
theorem test_bcs_rel_V98 :
    ends (step (start documented 0x0600#16 0x00#8 0x00#8 0x00#8 0xFF#8 0x21#8
      [] [0xB0#8, 0x00#8]))
      0x0602#16 0x00#8 0x00#8 0x00#8 0xFF#8 0x21#8 3 [] = true := by decide +kernel

/-- V99: BVC upward wrap 0xFFF0+0x7F -> 0x006F. -/
theorem test_bvc_rel_V99 :
    ends (step (start documented 0xFFEE#16 0x00#8 0x00#8 0x00#8 0xFF#8 0x20#8
      [] [0x50#8, 0x7F#8]))
      0x006F#16 0x00#8 0x00#8 0x00#8 0xFF#8 0x20#8 4 [] = true := by decide +kernel

/-- V100: BCC downward wrap 0x0010-128 -> 0xFF90. -/
theorem test_bcc_rel_V100 :
    ends (step (start documented 0x000E#16 0x00#8 0x00#8 0x00#8 0xFF#8 0x20#8
      [] [0x90#8, 0x80#8]))
      0xFF90#16 0x00#8 0x00#8 0x00#8 0xFF#8 0x20#8 4 [] = true := by decide +kernel

/-- V110: BRK. -/
theorem test_brk_imp_V110 :
    ends (step (start documented 0x0605#16 0x00#8 0x00#8 0x00#8 0xFF#8 0xA0#8
      [(0xFFFE#16, 0x50#8), (0xFFFF#16, 0x06#8)] [0x00#8]))
      0x0650#16 0x00#8 0x00#8 0x00#8 0xFC#8 0xA4#8 7 [(0x01FF#16, 0x06#8), (0x01FE#16, 0x07#8), (0x01FD#16, 0xB0#8)] = true := by decide +kernel

/-- V111: BRK with I already 1 still taken; stack wraps SP=0x01. -/
theorem test_brk_imp_V111 :
    ends (step (start documented 0x07FF#16 0x00#8 0x00#8 0x00#8 0x01#8 0x24#8
      [(0xFFFE#16, 0x00#8), (0xFFFF#16, 0x80#8)] [0x00#8]))
      0x8000#16 0x00#8 0x00#8 0x00#8 0xFE#8 0x24#8 7 [(0x0101#16, 0x08#8), (0x0100#16, 0x01#8), (0x01FF#16, 0x34#8)] = true := by decide +kernel

/-- V113: RTI pops 0xFF: bit 4 dropped, bit 5 kept. -/
theorem test_rti_imp_V113 :
    ends (step (start documented 0x0600#16 0x00#8 0x00#8 0x00#8 0xFC#8 0x20#8
      [(0x01FD#16, 0xFF#8), (0x01FE#16, 0x34#8), (0x01FF#16, 0x12#8)] [0x40#8]))
      0x1234#16 0x00#8 0x00#8 0x00#8 0xFF#8 0xEF#8 6 [] = true := by decide +kernel

/-- V114: RTI pops 0x00: bit 5 forced to 1. -/
theorem test_rti_imp_V114 :
    ends (step (start documented 0x0600#16 0x00#8 0x00#8 0x00#8 0xFC#8 0xE7#8
      [(0x01FD#16, 0x00#8), (0x01FE#16, 0x00#8), (0x01FF#16, 0x00#8)] [0x40#8]))
      0x0000#16 0x00#8 0x00#8 0x00#8 0xFF#8 0x20#8 6 [] = true := by decide +kernel

/-- V115: PHA. -/
theorem test_pha_imp_V115 :
    ends (step (start documented 0x0600#16 0x42#8 0x00#8 0x00#8 0xFF#8 0x20#8
      [] [0x48#8]))
      0x0601#16 0x42#8 0x00#8 0x00#8 0xFE#8 0x20#8 3 [(0x01FF#16, 0x42#8)] = true := by decide +kernel

/-- V116: PHA at SP=0x00 wraps to 0xFF. -/
theorem test_pha_imp_V116 :
    ends (step (start documented 0x0600#16 0x42#8 0x00#8 0x00#8 0x00#8 0x20#8
      [] [0x48#8]))
      0x0601#16 0x42#8 0x00#8 0x00#8 0xFF#8 0x20#8 3 [(0x0100#16, 0x42#8)] = true := by decide +kernel

/-- V117: PHP pushes P OR 0x30. -/
theorem test_php_imp_V117 :
    ends (step (start documented 0x0600#16 0x00#8 0x00#8 0x00#8 0xFF#8 0x23#8
      [] [0x08#8]))
      0x0601#16 0x00#8 0x00#8 0x00#8 0xFE#8 0x23#8 3 [(0x01FF#16, 0x33#8)] = true := by decide +kernel

/-- V118: PLA. -/
theorem test_pla_imp_V118 :
    ends (step (start documented 0x0600#16 0x55#8 0x00#8 0x00#8 0xFE#8 0x20#8
      [(0x01FF#16, 0x00#8)] [0x68#8]))
      0x0601#16 0x00#8 0x00#8 0x00#8 0xFF#8 0x22#8 4 [] = true := by decide +kernel

/-- V119: PLA at SP=0xFF wraps: reads 0x0100. -/
theorem test_pla_imp_V119 :
    ends (step (start documented 0x0600#16 0x00#8 0x00#8 0x00#8 0xFF#8 0x20#8
      [(0x0100#16, 0x80#8)] [0x68#8]))
      0x0601#16 0x80#8 0x00#8 0x00#8 0x00#8 0xA0#8 4 [] = true := by decide +kernel

/-- V120: PLP. -/
theorem test_plp_imp_V120 :
    ends (step (start documented 0x0600#16 0x00#8 0x00#8 0x00#8 0xFE#8 0x20#8
      [(0x01FF#16, 0xFF#8)] [0x28#8]))
      0x0601#16 0x00#8 0x00#8 0x00#8 0xFF#8 0xEF#8 4 [] = true := by decide +kernel

/-- V121: PLP of 0x00. -/
theorem test_plp_imp_V121 :
    ends (step (start documented 0x0600#16 0x00#8 0x00#8 0x00#8 0xFE#8 0xEF#8
      [(0x01FF#16, 0x00#8)] [0x28#8]))
      0x0601#16 0x00#8 0x00#8 0x00#8 0xFF#8 0x20#8 4 [] = true := by decide +kernel

/-- V122: CLC. -/
theorem test_clc_imp_V122 :
    ends (step (start documented 0x0600#16 0x00#8 0x00#8 0x00#8 0xFF#8 0x21#8
      [] [0x18#8]))
      0x0601#16 0x00#8 0x00#8 0x00#8 0xFF#8 0x20#8 2 [] = true := by decide +kernel

/-- V123: SEC. -/
theorem test_sec_imp_V123 :
    ends (step (start documented 0x0600#16 0x00#8 0x00#8 0x00#8 0xFF#8 0x20#8
      [] [0x38#8]))
      0x0601#16 0x00#8 0x00#8 0x00#8 0xFF#8 0x21#8 2 [] = true := by decide +kernel

/-- V124: CLI. -/
theorem test_cli_imp_V124 :
    ends (step (start documented 0x0600#16 0x00#8 0x00#8 0x00#8 0xFF#8 0x24#8
      [] [0x58#8]))
      0x0601#16 0x00#8 0x00#8 0x00#8 0xFF#8 0x20#8 2 [] = true := by decide +kernel

/-- V125: SEI. -/
theorem test_sei_imp_V125 :
    ends (step (start documented 0x0600#16 0x00#8 0x00#8 0x00#8 0xFF#8 0x20#8
      [] [0x78#8]))
      0x0601#16 0x00#8 0x00#8 0x00#8 0xFF#8 0x24#8 2 [] = true := by decide +kernel

/-- V126: CLD. -/
theorem test_cld_imp_V126 :
    ends (step (start documented 0x0600#16 0x00#8 0x00#8 0x00#8 0xFF#8 0x28#8
      [] [0xD8#8]))
      0x0601#16 0x00#8 0x00#8 0x00#8 0xFF#8 0x20#8 2 [] = true := by decide +kernel

/-- V127: SED. -/
theorem test_sed_imp_V127 :
    ends (step (start documented 0x0600#16 0x00#8 0x00#8 0x00#8 0xFF#8 0x20#8
      [] [0xF8#8]))
      0x0601#16 0x00#8 0x00#8 0x00#8 0xFF#8 0x28#8 2 [] = true := by decide +kernel

/-- V128: CLV. -/
theorem test_clv_imp_V128 :
    ends (step (start documented 0x0600#16 0x00#8 0x00#8 0x00#8 0xFF#8 0x60#8
      [] [0xB8#8]))
      0x0601#16 0x00#8 0x00#8 0x00#8 0xFF#8 0x20#8 2 [] = true := by decide +kernel

/-- V129: NOP. -/
theorem test_nop_imp_V129 :
    ends (step (start documented 0x0600#16 0x01#8 0x02#8 0x03#8 0xFF#8 0xE3#8
      [] [0xEA#8]))
      0x0601#16 0x01#8 0x02#8 0x03#8 0xFF#8 0xE3#8 2 [] = true := by decide +kernel

/-- V140: JMP abs to itself. -/
theorem test_jmp_abs_V140 :
    ends (step (start documented 0x060A#16 0x00#8 0x00#8 0x00#8 0xFF#8 0x20#8
      [] [0x4C#8, 0x0A#8, 0x06#8]))
      0x060A#16 0x00#8 0x00#8 0x00#8 0xFF#8 0x20#8 3 [] = true := by decide +kernel

/-- V142: JMP ($02FF): high byte from 0x0200, not 0x0300. -/
theorem test_jmp_ind_V142 :
    ends (step (start documented 0x0600#16 0x00#8 0x00#8 0x00#8 0xFF#8 0x20#8
      [(0x0200#16, 0x80#8), (0x02FF#16, 0x01#8), (0x0300#16, 0x40#8)] [0x6C#8, 0xFF#8, 0x02#8]))
      0x8001#16 0x00#8 0x00#8 0x00#8 0xFF#8 0x20#8 5 [] = true := by decide +kernel

/-- V143: JMP ($0300): no wrap. -/
theorem test_jmp_ind_V143 :
    ends (step (start documented 0x0600#16 0x00#8 0x00#8 0x00#8 0xFF#8 0x20#8
      [(0x0300#16, 0x34#8), (0x0301#16, 0x12#8)] [0x6C#8, 0x00#8, 0x03#8]))
      0x1234#16 0x00#8 0x00#8 0x00#8 0xFF#8 0x20#8 5 [] = true := by decide +kernel

/-- V144: JSR pushes pc0+2 high then low. -/
theorem test_jsr_abs_V144 :
    ends (step (start documented 0x0607#16 0x00#8 0x00#8 0x00#8 0xFF#8 0x20#8
      [] [0x20#8, 0x0D#8, 0x06#8]))
      0x060D#16 0x00#8 0x00#8 0x00#8 0xFD#8 0x20#8 6 [(0x01FF#16, 0x06#8), (0x01FE#16, 0x09#8)] = true := by decide +kernel

/-- V145: JSR at SP=0x00: high to 0x0100, low to 0x01FF. -/
theorem test_jsr_abs_V145 :
    ends (step (start documented 0x0700#16 0x00#8 0x00#8 0x00#8 0x00#8 0x20#8
      [] [0x20#8, 0x00#8, 0x80#8]))
      0x8000#16 0x00#8 0x00#8 0x00#8 0xFE#8 0x20#8 6 [(0x0100#16, 0x07#8), (0x01FF#16, 0x02#8)] = true := by decide +kernel

/-- V146: RTS. -/
theorem test_rts_imp_V146 :
    ends (step (start documented 0x0600#16 0x00#8 0x00#8 0x00#8 0xFD#8 0x20#8
      [(0x01FE#16, 0x09#8), (0x01FF#16, 0x06#8)] [0x60#8]))
      0x060A#16 0x00#8 0x00#8 0x00#8 0xFF#8 0x20#8 6 [] = true := by decide +kernel

/-- V147: RTS of 0xFFFF -> 0x0000. -/
theorem test_rts_imp_V147 :
    ends (step (start documented 0x0600#16 0x00#8 0x00#8 0x00#8 0xFD#8 0x20#8
      [(0x01FE#16, 0xFF#8), (0x01FF#16, 0xFF#8)] [0x60#8]))
      0x0000#16 0x00#8 0x00#8 0x00#8 0xFF#8 0x20#8 6 [] = true := by decide +kernel

/-! ### Faults of spec/95_test_vectors.md -/

/-- V160. -/
theorem test_illegal_V160 :
    faults (step (start documented 0x0600#16 0x00#8 0x00#8 0x00#8 0xFF#8 0x20#8 [] [0x02#8]))
      (.illegalOpcode 0x02#8 0x0600#16) = true := by decide +kernel

/-- V161: an unofficial opcode that real parts execute is illegal here. -/
theorem test_illegal_V161 :
    faults (step (start documented 0x0600#16 0x00#8 0x00#8 0x00#8 0xFF#8 0x20#8 [] [0xA7#8, 0x10#8]))
      (.illegalOpcode 0xA7#8 0x0600#16) = true := by decide +kernel

/-- V163. -/
theorem test_lda_abs_V163 :
    faults (step (start documented 0x0600#16 0x00#8 0x00#8 0x00#8 0xFF#8 0x20#8 [] [0xAD#8, 0x02#8, 0x20#8]))
      (.unimplementedMemory 0x2002#16 .read) = true := by decide +kernel

/-- V164. -/
theorem test_sta_abs_V164 :
    faults (step (start documented 0x0600#16 0x00#8 0x00#8 0x00#8 0xFF#8 0x20#8 [] [0x8D#8, 0x00#8, 0x40#8]))
      (.unimplementedMemory 0x4000#16 .write) = true := by decide +kernel

/-- V167: an opcode fetch from 0x2000. -/
theorem test_nop_V167 :
    faults (step { State.reset with pc := 0x2000#16 }) (.unimplementedMemory 0x2000#16 .read) = true := by decide +kernel

/-! ### Steps that are not instruction steps, S1 to S4 and S7 of spec/95_test_vectors.md -/

/-- NOP at 0600 with both vectors in place. -/
def vectors (map : Config.MemMap) (p sp : Byte) : State :=
  start map 0x0600#16 0x00#8 0x00#8 0x00#8 sp p
    [(0xFFFA#16, 0x90#8), (0xFFFB#16, 0x06#8), (0xFFFE#16, 0x80#8), (0xFFFF#16, 0x06#8)] [0xEA#8]

/-- Whether a step completed with this pending request and stall count. -/
def leaves (o : Host.Outcome State Fault Refusal) (k : Interrupt) (n : Byte) : Bool :=
  match o with
  | .next t => t.interrupt == k && t.stall == n
  | _ => false

/-- S1: NMI is taken although I = 1. -/
theorem test_step_S1 :
    ends (step ((vectors documented 0x24#8 0xFF#8).setInterrupt .nmi)) 0x0690#16 0x00#8 0x00#8 0x00#8 0xFC#8 0x24#8 7
      [(0x01FF#16, 0x06#8), (0x01FE#16, 0x00#8), (0x01FD#16, 0x24#8)] = true ∧
    leaves (step ((vectors documented 0x24#8 0xFF#8).setInterrupt .nmi)) .none 0#8 = true := by decide +kernel

/-- S2: a masked IRQ stays pending and the NOP executes. -/
theorem test_step_S2 :
    ends (step ((vectors documented 0x24#8 0xFF#8).setInterrupt .irq)) 0x0601#16 0x00#8 0x00#8 0x00#8 0xFF#8 0x24#8 2
      [] = true ∧
    leaves (step ((vectors documented 0x24#8 0xFF#8).setInterrupt .irq)) .irq 0#8 = true := by decide +kernel

/-- S3: an unmasked IRQ; the pushed copy has I = 0. -/
theorem test_step_S3 :
    ends (step ((vectors documented 0xE3#8 0xFF#8).setInterrupt .irq)) 0x0680#16 0x00#8 0x00#8 0x00#8 0xFC#8 0xE7#8 7
      [(0x01FF#16, 0x06#8), (0x01FE#16, 0x00#8), (0x01FD#16, 0xE3#8)] = true := by decide +kernel

/-- S4: the stall comes before the poll. -/
theorem test_step_S4 :
    ends (step (((vectors documented 0x20#8 0xFF#8).setInterrupt .nmi).setStall 1#8)) 0x0600#16 0x00#8 0x00#8 0x00#8
      0xFF#8 0x20#8 1 [] = true ∧
    leaves (step (((vectors documented 0x20#8 0xFF#8).setInterrupt .nmi).setStall 1#8)) .nmi 0#8 = true := by
  decide +kernel

/-- S7: the stack wraps inside the entry sequence. -/
theorem test_step_S7 :
    ends (step (((vectors Config.flat 0x20#8 0x01#8).setInterrupt .nmi).setPC 0x8123#16)) 0x0690#16 0x00#8 0x00#8 0x00#8
      0xFE#8 0x24#8 7 [(0x0101#16, 0x81#8), (0x0100#16, 0x23#8), (0x01FF#16, 0x20#8)] = true := by decide +kernel

/-- E1: SetZN of 7F with P = E3 gives 61. -/
theorem test_setZN_E1 : Flags.setZN 0x20#8 0x00#8 = 0x22#8 ∧ Flags.setZN 0x22#8 0x80#8 = 0xA0#8 ∧
    Flags.setZN 0xE3#8 0x7F#8 = 0x61#8 := by decide

/-- E2: SBC is ADC of the complemented operand with the same carry-in. -/
theorem test_sbc_E2 : Flags.adcResult 0x05#8 (0x03#8 ^^^ 0xFF#8) true = 0x02#8 ∧
    Flags.adcStatus 0x21#8 0x05#8 (0x03#8 ^^^ 0xFF#8) true = 0x21#8 := by decide

/-- The assembler forms of R101, and the offset of P1's BNE. -/
theorem test_assembler : assemblerLine 0x060A#16 (.bne 0xF8#8) = "BNE $0604" ∧
    assemblerLine 0x0602#16 (.ldaIzy 0x30#8) = "LDA ($30),Y" ∧ assemblerLine 0x0604#16 .clc = "CLC" ∧
    branchOffset 0x060A#16 0x0604#16 = some 0xF8#8 := by decide +kernel

/-! ### The interface of the opcode table -/

/-- An instruction of the table placed with `withFetchWord` right after reset is the one that the step runs. -/
theorem test_withFetchWord :
    decodeTableWord 16 0x80A9 = some (.ldaImm 0x80#8) ∧ decodeTableWord 8 0x6C = some (.jmpInd 0x0000#16) ∧
    ends (step (State.reset.withFetchWord 16 0x80A9)) 0x0002#16 0x80#8 0x00#8 0x00#8 0xFF#8 0xA0#8 2 [] = true ∧
    faults (step (State.reset.withFetchWord 8 0x02)) (.illegalOpcode 0x02#8 0x0000#16) = true := by decide +kernel

/-! ### Other maps and other cycle numbers -/

/-- All memory RAM, PC at 0600. -/
def flat : State := { State.reset with map := Config.flat, pc := 0x0600#16 }

/-- The documented map, PC at 0600. -/
def mapped : State := { State.reset with pc := 0x0600#16 }

/-- A state on the documented map with a cartridge of one's own, PC at 0600. -/
def withCartridge (regions : List Config.Region) : State := { mapped with map := .documented true regions }

/-- RAM at 0x6000, 16 KiB of ROM twice from 0x8000 on, and a device at 0x5000. -/
def board : State :=
  withCartridge [⟨0x6000, 0x7FFF, .memory 0x6000 0x2000 .keeps⟩, ⟨0x8000, 0xFFFF, .memory 0x8000 0x4000 .ignores⟩,
    ⟨0x5000, 0x5FFF, .external⟩, ⟨0x4020, 0x4FFF, .absent⟩]

/-- A cartridge that answers nowhere, so the vectors cannot be read. -/
def noCartridge : State := withCartridge []

/-- A cartridge that can be read and refuses stores. -/
def readOnly : State := withCartridge [⟨0x8000, 0xFFFF, .memory 0x8000 0x8000 .refuses⟩]

/-- All memory RAM but a hole where the port refuses every access. -/
def holed (first last : Nat) : State :=
  { flat with map := .regions [⟨first, last, .absent⟩, ⟨0x0000, 0xFFFF, .memory 0x0000 0x10000 .keeps⟩] }

/-- R68: contents and writability are the cartridge's, region by region. -/
theorem test_cartridge_regions :
    faults (exec (.ldaAbs 0x4020#16) board) (.unimplementedMemory 0x4020#16 .read) = true ∧
    ends (exec (.staAbs 0x6000#16) (board.setA 0x42#8)) 0x0603#16 0x42#8 0x00#8 0x00#8 0xFF#8 0x20#8 4
      [(0x6000#16, 0x42#8)] = true ∧
    ends (exec (.staAbs 0x8000#16) ((board.place 0xC000#16 0x55#8).setA 0x42#8)) 0x0603#16 0x42#8 0x00#8 0x00#8 0xFF#8
      0x20#8 4 [(0x8000#16, 0x55#8), (0xC000#16, 0x55#8)] = true := by decide +kernel

/-- R304: a vector read, a stack access and a zero-page pointer read that the port refuses are fatal. -/
theorem test_refused_internal_accesses :
    faults (exec .brk noCartridge) (.unimplementedMemory 0xFFFE#16 .read) = true ∧
    faults (step (noCartridge.setInterrupt .nmi)) (.unimplementedMemory 0xFFFA#16 .read) = true ∧
    faults (step ((holed 0x0100 0x01FE).setInterrupt .nmi)) (.unimplementedMemory 0x01FE#16 .write) = true ∧
    faults (exec .pla (holed 0x0100 0x01FF)) (.unimplementedMemory 0x0100#16 .read) = true ∧
    faults (exec (.ldaIzy 0xFF#8) (holed 0x0000 0x0000)) (.unimplementedMemory 0x0000#16 .read) = true := by
  decide +kernel

/-- Cycle numbers that differ from those of R110: NOP in 5, a taken branch 2 more, an interrupt entry in 9. -/
def slowTiming : Config.Timing := ⟨[(0xEA#8, ⟨5, 0⟩)], 2, 3, 9⟩

/-- R9: TIMING is data beside the state; it moves the counter and nothing else. -/
theorem test_timing_parameter :
    ends (exec .nop { flat with timing := slowTiming }) 0x0601#16 0x00#8 0x00#8 0x00#8 0xFF#8 0x20#8 5 [] = true ∧
    ends (exec (.bne 0x80#8) { flat with timing := slowTiming }) 0x0582#16 0x00#8 0x00#8 0x00#8 0xFF#8 0x20#8 7 [] = true ∧
    ends (step ({ flat with timing := slowTiming }.setInterrupt .nmi)) 0x0000#16 0x00#8 0x00#8 0x00#8 0xFC#8 0x24#8 9
      [] = true := by decide +kernel

/-- R305: a state that records a fault is no good end, even of the run with no step. -/
theorem test_faulted_never_ends_well : ¬ endsWell (fun _ => True) (flat.setFault (some .immediateStore)) := by
  rintro ⟨n, t, h, hf, -⟩
  cases n with
  | zero => cases h; cases hf
  | succ n => cases h

/-! ### Witnesses: states and operands that meet the hypotheses of the obligations -/

theorem flat_inv : Inv flat := ⟨⟨rfl, rfl⟩, by decide⟩

/-- The outcome of a completed step. -/
def isNext (o : Host.Outcome State Fault Refusal) : Bool :=
  match o with
  | .next _ => true
  | _ => false

theorem next_of {o : Host.Outcome State Fault Refusal} (h : isNext o = true) : ∃ t, o = .next t := by
  cases o with
  | next t => exact ⟨t, rfl⟩
  | fault f => cases h
  | refused r => cases h

theorem witness_StepKeepsInvariant : ∃ s t, Inv s ∧ step s = .next t :=
  have ⟨t, h⟩ := next_of (o := step flat) (by decide +kernel)
  ⟨flat, t, flat_inv, h⟩

theorem witness_HostOperationsKeepInvariant : ∃ s, Inv s := ⟨flat, flat_inv⟩

theorem witness_NamedBitAccess : State.getBit flat 7 = .ok false ∧ State.getBit flat 8 = .error (.invalidStatusBit 8) :=
  ⟨rfl, rfl⟩

theorem witness_DecodeOfEncode : (Instr.staIzy 0xFF#8).wellFormed = true ∧ (Instr.illegal 0xFF#8).wellFormed = true := by
  decide

theorem witness_EncodeOfDecode : decode [0x6C#8, 0xFF#8, 0x30#8, 0x00#8] = .ok (.jmpInd 0x30FF#16, [0x00#8]) := rfl

/-- An opcode whose cost is TIMING's own and one that keeps the number of R110. -/
theorem witness_DecodeFollowsTable : slowTiming.costs.lookup 0xEA#8 = some ⟨5, 0⟩ ∧ slowTiming.costs.lookup 0xA9#8 = none ∧
    0xA9#8 ∉ illegalOpcodes := by decide

/-- What StepRunsDecodedInstruction needs, across the wrap of PC. -/
theorem witness_StepRunsDecodedInstruction : ∃ s t bytes i, ready s ∧ decode bytes = .ok (i, []) ∧ bytesRead bytes s.pc s t ∧
    ∀ k, k < bytes.length → Memory.placeOf s.map (s.pc + BitVec.ofNat 16 k) ≠ .external :=
  ⟨start Config.flat 0xFFFF#16 0x00#8 0x00#8 0x00#8 0xFF#8 0x20#8 [] [0xA9#8, 0x80#8], _, [0xA9#8, 0x80#8], .ldaImm 0x80#8,
    ⟨rfl, rfl, rfl⟩, rfl, ⟨_, rfl, _, rfl, rfl⟩, by decide +kernel⟩

/-- LDA absolute with its opcode, its first and its second operand byte at 0x2000: what FetchFaults needs. -/
theorem witness_FetchFaults :
    (ready { mapped with pc := 0x2000#16 } ∧
      State.load { mapped with pc := 0x2000#16 } 0x2000#16 = .error (.unimplementedMemory 0x2000#16 .read)) ∧
    (let s := start documented 0x1FFF#16 0x00#8 0x00#8 0x00#8 0xFF#8 0x20#8 [] [0xAD#8]
     ready s ∧ s.read s.pc = .ok (0xAD#8, s) ∧ (tableEntry 0xAD#8).length = 3 ∧
      s.load (s.pc + 1#16) = .error (.unimplementedMemory 0x2000#16 .read)) ∧
    (let s := start documented 0x1FFE#16 0x00#8 0x00#8 0x00#8 0xFF#8 0x20#8 [] [0xAD#8, 0x34#8]
     ready s ∧ s.read s.pc = .ok (0xAD#8, s) ∧ s.read (s.pc + 1#16) = .ok (0x34#8, s) ∧
      s.load (s.pc + 2#16) = .error (.unimplementedMemory 0x2000#16 .read)) :=
  ⟨⟨⟨rfl, rfl, rfl⟩, rfl⟩, ⟨⟨rfl, rfl, rfl⟩, rfl, by decide, rfl⟩, ⟨rfl, rfl, rfl⟩, rfl, rfl, rfl⟩

theorem witness_PlacedInstructionIsRun : ∃ (s : State) (nbits w : Nat) (i : Instr),
    Memory.placeOf s.map s.pc = .cell 0x07FF ∧ Memory.placeOf s.map (s.pc + 1#16) = .cell 0 ∧
    Memory.placeOf s.map (s.pc + 2#16) = .cell 1 ∧ decodeTableWord nbits w = some i :=
  ⟨{ State.reset with pc := 0x07FF#16 }, 24, 0x30FF6C, .jmpInd 0x30FF#16, by decide, by decide, by decide, by decide⟩

/-- STALL at both ends of its range; also what StallRunsOut needs. -/
theorem witness_StallStepEffect : ∀ n ∈ [0x01#8, 0xFF#8], ∃ s : State, s.fault = none ∧ s.stall = n :=
  fun n _ => ⟨flat.setStall n, rfl, rfl⟩

/-- Both entries with every access answered, and with a refused push and a refused vector read. -/
theorem witness_InterruptEntryEffect : ∀ k ∈ [InterruptKind.nmi, InterruptKind.irq], ∃ vec : Word,
    (k, vec) ∈ [(InterruptKind.nmi, 0xFFFA#16), (InterruptKind.irq, 0xFFFE#16)] ∧
    (∃ (s : State) (lo hi : Byte) (x : State), s.fault = none ∧ s.stall = 0#8 ∧ s.poll = some k ∧
      entryAccesses s s.pc ((s.p &&& 0xEF#8) ||| 0x20#8) vec = .ok (lo, hi, x)) ∧
    (∀ s ∈ [holed 0x0100 0x01FF, noCartridge].map (fun s => s.setInterrupt (if k = .nmi then .nmi else .irq)),
      s.fault = none ∧ s.stall = 0#8 ∧ s.poll = some k ∧
      ∃ f, entryAccesses s s.pc ((s.p &&& 0xEF#8) ||| 0x20#8) vec = .error f) := by
  intro k _
  cases k with
  | nmi =>
    refine ⟨0xFFFA#16, by decide, ⟨flat.setInterrupt .nmi, _, _, _, rfl, rfl, rfl, rfl⟩, fun s hs => ?_⟩
    rcases List.mem_cons.1 hs with rfl | hs
    · exact ⟨rfl, rfl, rfl, _, rfl⟩
    · cases List.mem_singleton.1 hs; exact ⟨rfl, rfl, rfl, _, rfl⟩
  | irq =>
    refine ⟨0xFFFE#16, by decide, ⟨mapped.setInterrupt .irq, _, _, _, rfl, rfl, rfl, rfl⟩, fun s hs => ?_⟩
    rcases List.mem_cons.1 hs with rfl | hs
    · exact ⟨rfl, rfl, rfl, _, rfl⟩
    · cases List.mem_singleton.1 hs; exact ⟨rfl, rfl, rfl, _, rfl⟩

/-- Instructions that complete: what InstructionKeepsRequests, RegisterFrame and FlagFrame need. -/
theorem witness_exec_next : (∃ t, exec (.ldaZp 0x10#8) flat = .next t) ∧ (∃ t, exec .nop flat = .next t) :=
  ⟨next_of (by decide +kernel), next_of (by decide +kernel)⟩

/-- A step that completes under cycle numbers that charge every step. -/
theorem witness_CyclesAlwaysGrow : (∃ t, step flat = .next t) ∧ chargesAll flat.timing ∧ chargesAll slowTiming :=
  ⟨next_of (by decide +kernel), ⟨by decide, fun _ h => nomatch h⟩, by decide, by decide⟩

/-- A step that completes and one that faults. -/
theorem witness_CyclesAreNeverObserved : (∃ t, step flat = .next t) ∧
    step (flat.setFault (some .immediateStore)) = .fault .immediateStore :=
  ⟨next_of (by decide +kernel), rfl⟩

theorem witness_DecimalFlagIsInert :
    (mnemonicOf (.adcImm 0x99#8) ∉ [.php, .brk, .plp, .rti, .cld, .sed] ∧ ∃ t, exec (.adcImm 0x99#8) flat = .next t) ∧
    (mnemonicOf (.illegal 0x02#8) ∉ [.php, .brk, .plp, .rti, .cld, .sed] ∧
      exec (.illegal 0x02#8) flat = .fault (.illegalOpcode 0x02#8 0x0600#16)) :=
  ⟨⟨by decide, next_of (by decide +kernel)⟩, by decide, rfl⟩

theorem witness_IllegalOpcodeFaults : ∃ (s : State) (op : Byte), ready s ∧ s.load s.pc = .ok op ∧ op ∈ illegalOpcodes :=
  ⟨start Config.flat 0x0600#16 0x00#8 0x00#8 0x00#8 0xFF#8 0x20#8 [] [0xFF#8], 0xFF#8, ⟨rfl, rfl, rfl⟩, rfl, by decide⟩

/-- A refused read and a refused write of an official instruction, and a refused entry. -/
theorem witness_OfficialFaultsComeFromThePort :
    faults (exec (.ldaAbs 0x2000#16) mapped) (.unimplementedMemory 0x2000#16 .read) = true ∧
    faults (exec (.staAbs 0x401F#16) mapped) (.unimplementedMemory 0x401F#16 .write) = true ∧
    ∃ f, noCartridge.interruptEntry .irq = .error f :=
  ⟨by decide +kernel, by decide +kernel, _, rfl⟩

theorem witness_FlatMemoryCompletes : ∃ (i : Instr) (s : State), s.map = Config.flat ∧ mnemonicOf i ≠ .illegal :=
  ⟨.nop, flat, rfl, by decide⟩

/-- A pointer read, an operand read and an operand write refused, and the write of a read-modify-write refused. -/
theorem witness_OperandAccessFaults :
    (∃ f, locate (.indirectIndexed 0x10#8) (holed 0x0000 0x00FF) = .error f) ∧
    (locate (.absolute 0x2000#16) mapped = .ok (.memory 0x2000#16 false, mapped) ∧ (∃ f, mapped.load 0x2000#16 = .error f) ∧
      ∃ f, mapped.store 0x2000#16 mapped.a = .error f) ∧
    (locate (.absolute 0x8000#16) readOnly = .ok (.memory 0x8000#16 false, readOnly) ∧
      readOnly.read 0x8000#16 = .ok (0x00#8, readOnly) ∧
      (∀ v : Byte, readOnly.store 0x8000#16 v = .error (.unimplementedMemory 0x8000#16 .write)) ∧
      ∀ k ∈ [Mnemonic.asl, .lsr, .rol, .ror], (0x00#8).toNat = (shiftOutcome k (0x00#8).toNat readOnly.c).1) :=
  ⟨⟨_, rfl⟩, ⟨rfl, ⟨_, rfl⟩, _, rfl⟩, rfl, rfl, fun _ => rfl, by decide⟩

/-- The port at an address: where a read goes, and what a store does. -/
def port (m : Config.MemMap) (a : Word) : Place × StoreEffect := (Memory.placeOf m a, Memory.storeEffect m a)

/-- Each clause of R68's map at both ends of its range, with RAM_MIRRORING on and off. -/
theorem witness_DocumentedMap :
    port documented 0x0000#16 = (.cell 0, .writes 0) ∧
    port (.documented false []) 0x07FF#16 = (.cell 0x07FF, .writes 0x07FF) ∧
    port documented 0x0800#16 = (.cell 0, .writes 0) ∧ port documented 0x1FFF#16 = (.cell 0x07FF, .writes 0x07FF) ∧
    port (.documented false []) 0x0800#16 = (.absent, .refused) ∧
    port (.documented false []) 0x1FFF#16 = (.absent, .refused) ∧
    port documented 0x2000#16 = (.absent, .refused) ∧ port documented 0x401F#16 = (.absent, .refused) ∧
    port documented 0x4020#16 = (.cell 0x4020, .writes 0x4020) ∧
    port documented 0xFFFF#16 = (.cell 0xFFFF, .writes 0xFFFF) := by decide

/-- Each kind of region at both ends of its range: memory with each policy, a device, a hole, and no region. -/
theorem witness_DocumentedMap_regions :
    port board.map 0x4020#16 = (.absent, .refused) ∧ port board.map 0x4FFF#16 = (.absent, .refused) ∧
    port board.map 0x5000#16 = (.external, .external) ∧ port board.map 0x5FFF#16 = (.external, .external) ∧
    port board.map 0x6000#16 = (.cell 0x6000, .writes 0x6000) ∧ port board.map 0x7FFF#16 = (.cell 0x7FFF, .writes 0x7FFF) ∧
    port board.map 0x8000#16 = (.cell 0x8000, .dropped) ∧ port board.map 0xFFFF#16 = (.cell 0xBFFF, .dropped) ∧
    port readOnly.map 0x7FFF#16 = (.absent, .refused) ∧ port readOnly.map 0x8000#16 = (.cell 0x8000, .refused) ∧
    port Config.flat 0xFFFF#16 = (.cell 0xFFFF, .writes 0xFFFF) := by decide

theorem stackRam_flat : stackRam flat := by
  unfold stackRam
  decide +kernel

theorem stackRam_mapped : stackRam mapped := by
  unfold stackRam
  decide +kernel

/-- A push that completes on RAM and one that the port refuses. -/
theorem witness_PushWritesThenDecrements : stackRam mapped ∧
    (∃ t, (mapped.setSP 0x00#8).store (BitVec.ofNat 16 (0x0100 + 0x00)) 0x42#8 = .ok t) ∧
    ∃ f, (holed 0x0100 0x01FF).store (BitVec.ofNat 16 (0x0100 + 0xFF)) 0x42#8 = .error f :=
  ⟨stackRam_mapped, ⟨_, rfl⟩, _, rfl⟩

/-- A pop across the wrap of SP, one that the port refuses, and a push to pop. -/
theorem witness_PopReversesPush :
    flat.read (BitVec.ofNat 16 (0x0100 + (0xFF + 1) % 256)) = .ok (0x00#8, flat) ∧
    (∃ f, (holed 0x0100 0x01FF).read (BitVec.ofNat 16 (0x0100 + (0xFF + 1) % 256)) = .error f) ∧
    stackRam flat ∧ ∃ t, flat.push 0x42#8 = .ok t :=
  ⟨rfl, ⟨_, rfl⟩, stackRam_flat, _, rfl⟩

/-- Zero-page pointers at 0xFF wrap inside page 0; either byte of a pointer may be refused. -/
theorem witness_AddressingModes :
    (State.read (flat.setX 0x01#8) (BitVec.ofNat 16 ((0xFE + 1) % 256)) = .ok (0x00#8, flat.setX 0x01#8) ∧
      State.read (flat.setX 0x01#8) (BitVec.ofNat 16 ((0xFE + 1 + 1) % 256)) = .ok (0x00#8, flat.setX 0x01#8)) ∧
    (flat.read (BitVec.ofNat 16 0xFF) = .ok (0x00#8, flat) ∧ flat.read (BitVec.ofNat 16 ((0xFF + 1) % 256)) = .ok (0x00#8, flat)) ∧
    (∃ f, (holed 0x00FF 0x00FF).read (BitVec.ofNat 16 0xFF) = .error f) ∧
    (let s := holed 0x0000 0x0000
     s.read (BitVec.ofNat 16 0xFF) = .ok (0x00#8, s) ∧ ∃ f, s.read (BitVec.ofNat 16 ((0xFF + 1) % 256)) = .error f) :=
  ⟨⟨rfl, rfl⟩, ⟨rfl, rfl⟩, ⟨_, rfl⟩, rfl, _, rfl⟩

/-- The address one below and at a page boundary. -/
theorem witness_PageCrossing :
    (locate (.absoluteX 0x02FE#16) (flat.setX 0x01#8)).map Prod.fst = .ok (.memory 0x02FF#16 false) ∧
    (locate (.absoluteX 0x02FF#16) (flat.setX 0x01#8)).map Prod.fst = .ok (.memory 0x0300#16 true) ∧
    (locate (.absoluteY 0xFFFF#16) (flat.setY 0x02#8)).map Prod.fst = .ok (.memory 0x0001#16 true) ∧
    (locate (.absoluteY 0xFFFF#16) (flat.setY 0x00#8)).map Prod.fst = .ok (.memory 0xFFFF#16 false) ∧
    (State.readPointer flat 0xFF#8).map Prod.fst = .ok 0x0000#16 ∧
    (locate (.indirectIndexed 0xFF#8) (flat.setY 0xFF#8)).map Prod.fst = .ok (.memory 0x00FF#16 false) ∧
    (locate (.zeroPageX 0xFF#8) (flat.setX 0x02#8)).map Prod.fst = .ok (.memory 0x0001#16 false) :=
  ⟨rfl, rfl, rfl, rfl, rfl, rfl, rfl⟩

/-- An operand found and loaded: what LoadResults, AdcResult, SbcResult, LogicResults and CompareResults need. -/
theorem witness_loaded_operand : ∀ i ∈ [Instr.ldaZp 0x10#8, .ldxZp 0x10#8, .ldyZp 0x10#8, .adcZp 0x10#8, .sbcZp 0x10#8,
      .andZp 0x10#8, .oraZp 0x10#8, .eorZp 0x10#8, .bitZp 0x10#8, .cmpZp 0x10#8, .cpxZp 0x10#8, .cpyZp 0x10#8],
    operandOf i = .mode (.zeroPage 0x10#8) ∧ locate (.zeroPage 0x10#8) flat = .ok (.memory 0x0010#16 false, flat) ∧
    (Located.memory 0x0010#16 false).load flat = .ok (0x00#8, flat) := by
  intro i h
  refine ⟨?_, rfl, rfl⟩
  revert i
  decide

theorem witness_CompareResults :
    (mnemonicOf (.cmpZp 0x10#8), flat.a) ∈ [(Mnemonic.cmp, flat.a), (.cpx, flat.x), (.cpy, flat.y)] ∧
    (mnemonicOf (.cpxZp 0x10#8), flat.x) ∈ [(Mnemonic.cmp, flat.a), (.cpx, flat.x), (.cpy, flat.y)] ∧
    (mnemonicOf (.cpyZp 0x10#8), flat.y) ∈ [(Mnemonic.cmp, flat.a), (.cpx, flat.x), (.cpy, flat.y)] := by decide

/-- A place that loads and takes a store: what StoreResults, IncDecResults, MemoryShiftResults and the memory form of
NineRotatesRestore need. -/
theorem witness_stored_operand : ∀ i ∈ [Instr.staZp 0x10#8, .stxZp 0x10#8, .styZp 0x10#8, .incZp 0x10#8, .decZp 0x10#8,
      .aslZp 0x10#8, .lsrZp 0x10#8, .rolZp 0x10#8, .rorZp 0x10#8],
    operandOf i = .mode (.zeroPage 0x10#8) ∧ locate (.zeroPage 0x10#8) flat = .ok (.memory 0x0010#16 false, flat) ∧
    flat.read 0x0010#16 = .ok (0x00#8, flat) ∧ Memory.storeEffect flat.map 0x0010#16 = .writes 0x0010 ∧
    ∀ v : Byte, ∃ t, flat.store 0x0010#16 v = .ok t := by
  intro i h
  refine ⟨?_, rfl, rfl, rfl, fun v => ⟨_, rfl⟩⟩
  revert i
  decide

theorem witness_AccumulatorShiftResults : ∀ i ∈ [Instr.aslAcc, .lsrAcc, .rolAcc, .rorAcc],
    mnemonicOf i ∈ [.asl, .lsr, .rol, .ror] ∧ operandOf i = .mode .accumulator := by decide

theorem witness_MemoryShiftResults : ∀ i ∈ [Instr.aslZp 0x10#8, .lsrZp 0x10#8, .rolZp 0x10#8, .rorZp 0x10#8],
    ∃ r : Byte, mnemonicOf i ∈ [.asl, .lsr, .rol, .ror] ∧ r.toNat = (shiftOutcome (mnemonicOf i) 0 flat.c).1 := by
  intro i h
  refine ⟨0x00#8, ?_⟩
  revert i
  decide

/-- Each branch taken and not taken: the flag clear in `flat`, set in a state with every flag set. -/
theorem witness_BranchResults : ∀ b : Bool, ∀ k ∈ [Instr.bcc 0x80#8, .bcs 0x80#8, .beq 0x80#8, .bne 0x80#8, .bmi 0x80#8,
      .bpl 0x80#8, .bvc 0x80#8, .bvs 0x80#8],
    ∃ want, (mnemonicOf k, b, want) ∈
      let s := flat.setP (if b then 0xFF#8 else 0x20#8)
      [(Mnemonic.bcc, s.c, false), (Mnemonic.bcs, s.c, true), (Mnemonic.beq, s.z, true), (Mnemonic.bne, s.z, false),
       (Mnemonic.bmi, s.n, true), (Mnemonic.bpl, s.n, false), (Mnemonic.bvc, s.v, false), (Mnemonic.bvs, s.v, true)] := by
  decide +kernel

/-- BRK with every access answered, and with a refused push and a refused vector read. -/
theorem witness_BrkEffect :
    (∃ lo hi x, entryAccesses mapped (mapped.pc + 2#16) (mapped.p ||| 0x30#8) 0xFFFE#16 = .ok (lo, hi, x)) ∧
    (∃ f, entryAccesses (holed 0x01FD 0x01FD) 0x0602#16 0x30#8 0xFFFE#16 = .error f) ∧
    ∃ f, entryAccesses noCartridge (noCartridge.pc + 2#16) (noCartridge.p ||| 0x30#8) 0xFFFE#16 = .error f :=
  ⟨⟨_, _, _, rfl⟩, ⟨_, rfl⟩, _, rfl⟩

/-- The three pops of RTI across the wrap of SP, and a refused one. -/
theorem witness_RtiEffect : (∃ p lo hi v, returnAccesses (mapped.setSP 0xFE#8) = .ok (p, lo, hi, v)) ∧
    ∃ f, returnAccesses (holed 0x0102 0x0102) = .error f :=
  ⟨⟨_, _, _, _, rfl⟩, _, rfl⟩

/-- BRK and an interrupt step that complete; also what BreakBitTellsBrkFromInterrupt needs. -/
theorem witness_RtiReturnsFromEntry : stackRam flat ∧ statusFixed flat.p ∧ (∃ t, exec .brk flat = .next t) ∧
    stackRam (flat.setInterrupt .nmi) ∧ (flat.setInterrupt .nmi).poll = some .nmi ∧
    ∃ t, step (flat.setInterrupt .nmi) = .next t :=
  ⟨stackRam_flat, ⟨rfl, rfl⟩, next_of (by decide +kernel), stackRam_flat, rfl, next_of (by decide +kernel)⟩

/-- A push and a pop answered and refused. -/
theorem witness_StackInstructionResults :
    (∀ v : Byte, ∃ t, mapped.store (slot mapped 0) v = .ok t) ∧
    (∀ v : Byte, ∃ f, (holed 0x0100 0x01FF).store (slot (holed 0x0100 0x01FF) 0) v = .error f) ∧
    (∃ v t, mapped.read (stackAddress (mapped.sp + 1#8)) = .ok (v, t)) ∧
    ∃ f, (holed 0x0100 0x01FF).read (stackAddress ((holed 0x0100 0x01FF).sp + 1#8)) = .error f :=
  ⟨fun _ => ⟨_, rfl⟩, fun _ => ⟨_, rfl⟩, ⟨_, _, rfl⟩, _, rfl⟩

theorem witness_StackRoundTrips : stackRam flat ∧ statusFixed flat.p ∧ (∃ t, exec .pha flat = .next t) ∧
    (∃ t, exec .php flat = .next t) ∧ ∃ t, exec (.jsr 0x1234#16) flat = .next t :=
  ⟨stackRam_flat, ⟨rfl, rfl⟩, next_of (by decide +kernel), next_of (by decide +kernel), next_of (by decide +kernel)⟩

/-- JMP indirect: both bytes readable, the first refused, and the second refused. -/
theorem witness_JumpResults :
    (flat.read 0x30FF#16 = .ok (0x00#8, flat) ∧
      flat.read (BitVec.ofNat 16 (0x30FF / 256 * 256 + (0x30FF % 256 + 1) % 256)) = .ok (0x00#8, flat)) ∧
    (∃ f, mapped.read 0x2000#16 = .error f) ∧
    (mapped.read 0x40FF#16 = .ok (0x00#8, mapped) ∧
      ∃ f, mapped.read (BitVec.ofNat 16 (0x40FF / 256 * 256 + (0x40FF % 256 + 1) % 256)) = .error f) :=
  ⟨⟨rfl, rfl⟩, ⟨_, rfl⟩, rfl, _, rfl⟩

/-- JSR and RTS with both accesses answered, the first refused, and the second refused. -/
theorem witness_CallResults :
    (∃ t, mapped.store (slot mapped 0) (Bits.hiByte (mapped.pc + 2#16)) = .ok t ∧
      ∃ u, t.store (slot mapped 1) (Bits.loByte (mapped.pc + 2#16)) = .ok u) ∧
    (∃ f, (holed 0x01FF 0x01FF).store (slot (holed 0x01FF 0x01FF) 0) 0x06#8 = .error f) ∧
    (∃ t, (holed 0x01FE 0x01FE).store (slot (holed 0x01FE 0x01FE) 0) 0x06#8 = .ok t ∧
      ∃ f, t.store (slot (holed 0x01FE 0x01FE) 1) 0x02#8 = .error f) ∧
    (mapped.read (stackAddress (mapped.sp + 1#8)) = .ok (0x00#8, mapped) ∧
      mapped.read (stackAddress (mapped.sp + 2#8)) = .ok (0x00#8, mapped)) ∧
    (∃ f, (holed 0x0100 0x0100).read (stackAddress ((holed 0x0100 0x0100).sp + 1#8)) = .error f) ∧
    ((holed 0x0101 0x0101).read (stackAddress ((holed 0x0101 0x0101).sp + 1#8)) = .ok (0x00#8, holed 0x0101 0x0101) ∧
      ∃ f, (holed 0x0101 0x0101).read (stackAddress ((holed 0x0101 0x0101).sp + 2#8)) = .error f) :=
  ⟨⟨_, rfl, _, rfl⟩, ⟨_, rfl⟩, ⟨_, rfl, _, rfl⟩, ⟨rfl, rfl⟩, ⟨_, rfl⟩, rfl, _, rfl⟩

theorem witness_NonStoringFrame : mnemonicOf .nop ∉ pushers ∧ (mnemonicOf .nop ∈ writers → operandOf .nop = .mode .accumulator) ∧
    (∃ t, exec .nop flat = .next t) ∧ Memory.placeOf flat.map 0x0000#16 ≠ .external :=
  ⟨by decide, fun h => absurd h (by decide), next_of (by decide +kernel), by decide⟩

theorem witness_OperandStoreFrame : ∃ t, exec (.staZp 0x10#8) flat = .next t ∧ mnemonicOf (.staZp 0x10#8) ∈ writers ∧
    operandOf (.staZp 0x10#8) = .mode (.zeroPage 0x10#8) ∧
    locate (.zeroPage 0x10#8) flat = .ok (.memory 0x0010#16 false, flat) ∧ Memory.placeOf flat.map 0x0011#16 ≠ .external ∧
    Memory.placeOf flat.map 0x0011#16 ≠ Memory.placeOf flat.map 0x0010#16 :=
  have ⟨t, h⟩ := next_of (o := exec (.staZp 0x10#8) flat) (by decide +kernel)
  ⟨t, h, by decide, rfl, rfl, by decide, by decide⟩

theorem witness_StackStoreFrame : ∃ t, exec .brk flat = .next t ∧ mnemonicOf .brk ∈ pushers ∧
    Memory.placeOf flat.map 0x0200#16 ≠ .external ∧
    ∀ n, n < pushCount (mnemonicOf .brk) → Memory.placeOf flat.map 0x0200#16 ≠ Memory.placeOf flat.map (slot flat n) :=
  have ⟨t, h⟩ := next_of (o := exec .brk flat) (by decide +kernel)
  ⟨t, h, by decide, by decide, by decide⟩

theorem witness_HostOperations : flat.interrupt = .none ∧ flat.raiseNMI.interrupt ≠ .none := by decide

theorem witness_FaultStatus : step (flat.setFault (some .immediateStore)) = .fault .immediateStore ∧
    (flat.setFault (some .immediateStore)).fault = some .immediateStore := ⟨rfl, rfl⟩

theorem witness_LoadAfterStore : Memory.storeEffect mapped.map 0x0800#16 = .writes 0 ∧
    ∃ t, mapped.store 0x0800#16 0x66#8 = .ok t := ⟨by decide, _, rfl⟩

end Sys2Proof.Tests
end

section
/-! The part of the state that instructions compute with, and for each mnemonic what it makes of it
(spec/10_state.md R21 to R37). Every other field is out of reach of these functions by their type. -/

namespace Sys2Proof.Machine

/-- A, X, Y, SP and P. -/
structure Regs where
  a : Byte
  x : Byte
  y : Byte
  sp : Byte
  p : Byte

/-- The register file of a state. -/
def State.regs (s : State) : Regs := ⟨s.a, s.x, s.y, s.sp, s.p⟩

/-- A state with its register file replaced. -/
def State.withRegs (s : State) (r : Regs) : State := { s with a := r.a, x := r.x, y := r.y, sp := r.sp, p := r.p }

/-- A and P after adding `m` with the carry (R190). -/
def Regs.add (m : Byte) (r : Regs) : Regs :=
  { r with
    a := Flags.adcResult r.a m (Flags.get r.p Flags.cBit)
    p := Flags.adcStatus r.p r.a m (Flags.get r.p Flags.cBit) }

/-- The instructions that load their operand: the registers after it, from the loaded byte (R160 to R162, R190 to R195,
R230 to R233). -/
inductive ReadOp : Mnemonic → (Byte → Regs → Regs) → Prop
  | lda : ReadOp .lda fun m r => { r with a := m, p := Flags.setZN r.p m }
  | ldx : ReadOp .ldx fun m r => { r with x := m, p := Flags.setZN r.p m }
  | ldy : ReadOp .ldy fun m r => { r with y := m, p := Flags.setZN r.p m }
  | adc : ReadOp .adc Regs.add
  | sbc : ReadOp .sbc fun m r => Regs.add (m ^^^ 0xFF#8) r
  | and : ReadOp .and fun m r => { r with a := r.a &&& m, p := Flags.setZN r.p (r.a &&& m) }
  | ora : ReadOp .ora fun m r => { r with a := r.a ||| m, p := Flags.setZN r.p (r.a ||| m) }
  | eor : ReadOp .eor fun m r => { r with a := r.a ^^^ m, p := Flags.setZN r.p (r.a ^^^ m) }
  | bit : ReadOp .bit fun m r => { r with p := Flags.bitStatus r.p r.a m }
  | cmp : ReadOp .cmp fun m r => { r with p := Flags.compareStatus r.p r.a m }
  | cpx : ReadOp .cpx fun m r => { r with p := Flags.compareStatus r.p r.x m }
  | cpy : ReadOp .cpy fun m r => { r with p := Flags.compareStatus r.p r.y m }

/-- The instructions that store a register: which one (R163 to R165). -/
inductive StoreOp : Mnemonic → (Regs → Byte) → Prop
  | sta : StoreOp .sta Regs.a
  | stx : StoreOp .stx Regs.x
  | sty : StoreOp .sty Regs.y

/-- The instructions that write back what they load: the new byte and the new P, from the loaded byte (R196, R197,
R220 to R224). -/
inductive ModifyOp : Mnemonic → (Byte → Regs → Byte) → (Byte → Regs → Byte) → Prop
  | inc : ModifyOp .inc (fun m _ => m + 1#8) fun m r => Flags.setZN r.p (m + 1#8)
  | dec : ModifyOp .dec (fun m _ => m - 1#8) fun m r => Flags.setZN r.p (m - 1#8)
  | asl : ModifyOp .asl (fun m r => Flags.shiftResult .asl m (Flags.get r.p Flags.cBit))
      fun m r => Flags.shiftStatus .asl r.p m (Flags.get r.p Flags.cBit)
  | lsr : ModifyOp .lsr (fun m r => Flags.shiftResult .lsr m (Flags.get r.p Flags.cBit))
      fun m r => Flags.shiftStatus .lsr r.p m (Flags.get r.p Flags.cBit)
  | rol : ModifyOp .rol (fun m r => Flags.shiftResult .rol m (Flags.get r.p Flags.cBit))
      fun m r => Flags.shiftStatus .rol r.p m (Flags.get r.p Flags.cBit)
  | ror : ModifyOp .ror (fun m r => Flags.shiftResult .ror m (Flags.get r.p Flags.cBit))
      fun m r => Flags.shiftStatus .ror r.p m (Flags.get r.p Flags.cBit)

/-- The instructions that make no access of their own (R166 to R171, R198 to R201, R266 to R273). -/
inductive RegisterOp : Mnemonic → (Regs → Regs) → Prop
  | tax : RegisterOp .tax fun r => { r with x := r.a, p := Flags.setZN r.p r.a }
  | tay : RegisterOp .tay fun r => { r with y := r.a, p := Flags.setZN r.p r.a }
  | txa : RegisterOp .txa fun r => { r with a := r.x, p := Flags.setZN r.p r.x }
  | tya : RegisterOp .tya fun r => { r with a := r.y, p := Flags.setZN r.p r.y }
  | tsx : RegisterOp .tsx fun r => { r with x := r.sp, p := Flags.setZN r.p r.sp }
  | txs : RegisterOp .txs fun r => { r with sp := r.x }
  | inx : RegisterOp .inx fun r => { r with x := r.x + 1#8, p := Flags.setZN r.p (r.x + 1#8) }
  | iny : RegisterOp .iny fun r => { r with y := r.y + 1#8, p := Flags.setZN r.p (r.y + 1#8) }
  | dex : RegisterOp .dex fun r => { r with x := r.x - 1#8, p := Flags.setZN r.p (r.x - 1#8) }
  | dey : RegisterOp .dey fun r => { r with y := r.y - 1#8, p := Flags.setZN r.p (r.y - 1#8) }
  | nop : RegisterOp .nop fun r => r

/-- The instructions that write one flag: which bit and what (R266 to R272). -/
inductive FlagOp : Mnemonic → Nat → Bool → Prop
  | clc : FlagOp .clc Flags.cBit false
  | sec : FlagOp .sec Flags.cBit true
  | cli : FlagOp .cli Flags.iBit false
  | sei : FlagOp .sei Flags.iBit true
  | cld : FlagOp .cld Flags.dBit false
  | sed : FlagOp .sed Flags.dBit true
  | clv : FlagOp .clv Flags.vBit false

/-- The branches: the tested bit of P and the value it is taken on (R241 to R248). -/
inductive BranchOp : Mnemonic → Nat → Bool → Prop
  | bcc : BranchOp .bcc Flags.cBit false
  | bcs : BranchOp .bcs Flags.cBit true
  | beq : BranchOp .beq Flags.zBit true
  | bne : BranchOp .bne Flags.zBit false
  | bmi : BranchOp .bmi Flags.nBit true
  | bpl : BranchOp .bpl Flags.nBit false
  | bvc : BranchOp .bvc Flags.vBit false
  | bvs : BranchOp .bvs Flags.vBit true

/-- The instructions that push or pop: the registers after it, from the popped byte that goes into one, if any (R260 to
R265, R292, R293). -/
inductive StackOp : Mnemonic → (Byte → Regs → Regs) → Prop
  | pha : StackOp .pha fun _ r => { r with sp := r.sp - 1#8 }
  | php : StackOp .php fun _ r => { r with sp := r.sp - 1#8 }
  | jsr : StackOp .jsr fun _ r => { r with sp := r.sp - 2#8 }
  | brk : StackOp .brk fun _ r => { r with sp := r.sp - 3#8, p := Flags.put r.p Flags.iBit true }
  | pla : StackOp .pla fun m r => { r with sp := r.sp + 1#8, a := m, p := Flags.setZN r.p m }
  | plp : StackOp .plp fun m r => { r with sp := r.sp + 1#8, p := Flags.pulled m }
  | rts : StackOp .rts fun _ r => { r with sp := r.sp + 2#8 }
  | rti : StackOp .rti fun m r => { r with sp := r.sp + 3#8, p := Flags.pulled m }

/-- The instructions that make accesses without an operand to load or store: what they do, from the state before PC is
advanced and the state after (R260 to R265, R291 to R293). -/
inductive Action : Instr → (State → State → Except Fault State) → Prop
  | jmpInd (pointer : Word) : Action (.jmpInd pointer) fun _ t => do
      let (target, u) ← t.readInPage pointer
      return u.setPC target
  | jsr (address : Word) : Action (.jsr address) fun s t => do
      let u ← t.push16 (s.pc + 2#16)
      return u.setPC address
  | rts : Action .rts fun _ t => do
      let (w, u) ← t.pop16
      return u.setPC (w + 1#16)
  | pha : Action .pha fun _ t => t.push t.a
  | php : Action .php fun _ t => t.push (Flags.pushedByBreak t.p)
  | pla : Action .pla fun _ t => do
      let (v, u) ← t.pop
      return (u.setA v).setZN v
  | plp : Action .plp fun _ t => do
      let (v, u) ← t.pop
      return u.setP (Flags.pulled v)
  | brk : Action .brk fun s t => t.enter (s.pc + 2#16) (Flags.pushedByBreak t.p) irqVector
  | rti : Action .rti fun _ t => t.leave

/-- Which operation each instruction is, with its function of the registers. -/
inductive Form : Instr → Prop
  | reads {i ρ} (am : AddressingMode) (hρ : ReadOp (mnemonicOf i) ρ) (ho : operandOf i = .mode am)
      (h : exec i = onOperand i am fun m t => t.withRegs (ρ m t.regs)) : Form i
  | stores {i v} (am : AddressingMode) (hv : StoreOp (mnemonicOf i) v)
      (h : exec i = storeOperand i am fun t => v t.regs) (ha : am ≠ .accumulator) : Form i
  | modifies {i new status} (am : AddressingMode) (hm : ModifyOp (mnemonicOf i) new status)
      (ho : operandOf i = .mode am)
      (h : exec i = modifyOperand i am (fun m t => new m t.regs) fun m t => status m t.regs) : Form i
  | registers {i ρ} (hρ : RegisterOp (mnemonicOf i) ρ)
      (h : exec i = onRegisters i fun t => t.withRegs (ρ t.regs)) : Form i
  | flag {i k v} (hf : FlagOp (mnemonicOf i) k v)
      (h : exec i = onRegisters i fun t => t.setP (Flags.put t.p k v)) : Form i
  | branches {i k want} (offset : Byte) (hb : BranchOp (mnemonicOf i) k want)
      (h : exec i = opBranch i (fun t => Flags.get t.p k) want offset) : Form i
  | jmpAbs (address : Word) : Form (.jmpAbs address)
  | acts {i f} (hf : Action i f) (h : exec i = fun s => onStack i (f s) s) : Form i
  | illegal (opcode : Byte) : Form (.illegal opcode)

/-- Every instruction has one of the forms. -/
theorem form_of (i : Instr) : Form i := by
  cases i with
  | ldaImm w | ldaZp w | ldaZpx w | ldaAbs w | ldaAbx w | ldaAby w | ldaIzx w | ldaIzy w => exact .reads _ .lda rfl rfl
  | ldxImm w | ldxZp w | ldxZpy w | ldxAbs w | ldxAby w => exact .reads _ .ldx rfl rfl
  | ldyImm w | ldyZp w | ldyZpx w | ldyAbs w | ldyAbx w => exact .reads _ .ldy rfl rfl
  | staZp w | staZpx w | staAbs w | staAbx w | staAby w | staIzx w | staIzy w => exact .stores _ .sta rfl nofun
  | stxZp w | stxZpy w | stxAbs w => exact .stores _ .stx rfl nofun
  | styZp w | styZpx w | styAbs w => exact .stores _ .sty rfl nofun
  | tax => exact .registers .tax rfl
  | tay => exact .registers .tay rfl
  | txa => exact .registers .txa rfl
  | tya => exact .registers .tya rfl
  | tsx => exact .registers .tsx rfl
  | txs => exact .registers .txs rfl
  | adcImm w | adcZp w | adcZpx w | adcAbs w | adcAbx w | adcAby w | adcIzx w | adcIzy w => exact .reads _ .adc rfl rfl
  | sbcImm w | sbcZp w | sbcZpx w | sbcAbs w | sbcAbx w | sbcAby w | sbcIzx w | sbcIzy w => exact .reads _ .sbc rfl rfl
  | andImm w | andZp w | andZpx w | andAbs w | andAbx w | andAby w | andIzx w | andIzy w => exact .reads _ .and rfl rfl
  | oraImm w | oraZp w | oraZpx w | oraAbs w | oraAbx w | oraAby w | oraIzx w | oraIzy w => exact .reads _ .ora rfl rfl
  | eorImm w | eorZp w | eorZpx w | eorAbs w | eorAbx w | eorAby w | eorIzx w | eorIzy w => exact .reads _ .eor rfl rfl
  | bitZp w | bitAbs w => exact .reads _ .bit rfl rfl
  | incZp w | incZpx w | incAbs w | incAbx w => exact .modifies _ .inc rfl rfl
  | decZp w | decZpx w | decAbs w | decAbx w => exact .modifies _ .dec rfl rfl
  | inx => exact .registers .inx rfl
  | iny => exact .registers .iny rfl
  | dex => exact .registers .dex rfl
  | dey => exact .registers .dey rfl
  | aslAcc | aslZp w | aslZpx w | aslAbs w | aslAbx w => exact .modifies _ .asl rfl rfl
  | lsrAcc | lsrZp w | lsrZpx w | lsrAbs w | lsrAbx w => exact .modifies _ .lsr rfl rfl
  | rolAcc | rolZp w | rolZpx w | rolAbs w | rolAbx w => exact .modifies _ .rol rfl rfl
  | rorAcc | rorZp w | rorZpx w | rorAbs w | rorAbx w => exact .modifies _ .ror rfl rfl
  | cmpImm w | cmpZp w | cmpZpx w | cmpAbs w | cmpAbx w | cmpAby w | cmpIzx w | cmpIzy w => exact .reads _ .cmp rfl rfl
  | cpxImm w | cpxZp w | cpxAbs w => exact .reads _ .cpx rfl rfl
  | cpyImm w | cpyZp w | cpyAbs w => exact .reads _ .cpy rfl rfl
  | bcc w => exact .branches w .bcc rfl
  | bcs w => exact .branches w .bcs rfl
  | beq w => exact .branches w .beq rfl
  | bne w => exact .branches w .bne rfl
  | bmi w => exact .branches w .bmi rfl
  | bpl w => exact .branches w .bpl rfl
  | bvc w => exact .branches w .bvc rfl
  | bvs w => exact .branches w .bvs rfl
  | brk => exact .acts .brk rfl
  | rti => exact .acts .rti rfl
  | pha => exact .acts .pha rfl
  | php => exact .acts .php rfl
  | pla => exact .acts .pla rfl
  | plp => exact .acts .plp rfl
  | clc => exact .flag .clc rfl
  | sec => exact .flag .sec rfl
  | cli => exact .flag .cli rfl
  | sei => exact .flag .sei rfl
  | cld => exact .flag .cld rfl
  | sed => exact .flag .sed rfl
  | clv => exact .flag .clv rfl
  | nop => exact .registers .nop rfl
  | jmpAbs w => exact .jmpAbs w
  | jmpInd w => exact .acts (.jmpInd w) rfl
  | jsr w => exact .acts (.jsr w) rfl
  | rts => exact .acts .rts rfl
  | illegal op => exact .illegal op

end Sys2Proof.Machine
end

section
/-! From the form of an instruction to the state it leaves: the registers by mnemonic, the canonical form of memory and
the cycles (spec/40_engine_addressing.md R133 to R139). -/

namespace Sys2Proof.Machine

/-- How the registers of an instruction that completes can change, by its mnemonic and operand. -/
inductive RegChange : Mnemonic → Operand → Regs → Regs → Prop
  | reads {k o r ρ} (m : Byte) (hρ : ReadOp k ρ) : RegChange k o r (ρ m r)
  | stores {k o r v} (hv : StoreOp k v) : RegChange k o r r
  | modifiesA {k r new status} (m : Byte) (hm : ModifyOp k new status) :
      RegChange k (.mode .accumulator) r { r with a := new m r, p := status m r }
  | modifies {k o r new status} (m : Byte) (hm : ModifyOp k new status) : RegChange k o r { r with p := status m r }
  | registers {k o r ρ} (hρ : RegisterOp k ρ) : RegChange k o r (ρ r)
  | flag {k o r b v} (hf : FlagOp k b v) : RegChange k o r { r with p := Flags.put r.p b v }
  | branches {k o r b v} (hb : BranchOp k b v) : RegChange k o r r
  | jumps {o r} : RegChange .jmp o r r
  | stack {k o r ρ} (m : Byte) (hρ : StackOp k ρ) : RegChange k o r (ρ m r)

/-- What an instruction has done when it completes. -/
structure Completes (i : Instr) (s t : State) : Prop where
  regs : RegChange (mnemonicOf i) (operandOf i) s.regs t.regs
  wf : Memory.wf s.mem → Memory.wf t.mem
  cost : s.cycles + (costOf s.timing i).base ≤ t.cycles

theorem base_le_cycleCost (timing : Config.Timing) (i : Instr) (crossed : Bool) (extra : Nat) :
    (costOf timing i).base ≤ cycleCost timing i crossed extra := by
  unfold cycleCost; omega

/-- An instruction's cycles, whatever else it does. -/
theorem cost_le (s : State) (i : Instr) (crossed : Bool) (extra : Nat) :
    s.cycles + (costOf s.timing i).base ≤ s.cycles + cycleCost s.timing i crossed extra :=
  Nat.add_le_add_left (base_le_cycleCost ..) _

/-! ### What the stack operations leave -/

section
variable {s t : State}

theorem State.push_frame {v : Byte} (h : s.push v = .ok t) :
    ∃ m e, t = { s with mem := m, external := e, sp := s.sp - 1#8 } := by
  obtain ⟨_, hv, rfl⟩ := State.push_ok h
  obtain ⟨m, e, rfl⟩ := State.store_accesses hv
  exact ⟨m, e, rfl⟩

theorem State.push16_frame {w : Word} (h : s.push16 w = .ok t) :
    ∃ m e, t = { s with mem := m, external := e, sp := s.sp - 2#8 } := by
  obtain ⟨_, _, hi, lo, rfl⟩ := State.push16_ok h
  obtain ⟨m, e, rfl⟩ := (State.store_accesses hi).trans (State.store_accesses lo)
  exact ⟨m, e, rfl⟩

theorem State.pop_frame {v : Byte} (h : s.pop = .ok (v, t)) :
    ∃ e, t = { s with external := e, sp := s.sp + 1#8 } := by
  obtain ⟨_, hv, rfl⟩ := State.pop_ok h
  obtain ⟨e, rfl⟩ := State.read_reads hv
  exact ⟨e, rfl⟩

theorem State.pop16_frame {w : Word} (h : s.pop16 = .ok (w, t)) :
    ∃ e, t = { s with external := e, sp := s.sp + 2#8 } := by
  obtain ⟨_, _, _, _, lo, hi, -, rfl⟩ := State.pop16_ok h
  obtain ⟨e, rfl⟩ := (State.read_reads lo).trans (State.read_reads hi)
  exact ⟨e, rfl⟩

/-- BRK and interrupt entry: three bytes pushed, I set, PC from the vector (R260, R310). -/
theorem State.enter_frame {ret vec : Word} {pushed : Byte} (h : s.enter ret pushed vec = .ok t) :
    ∃ m e target, t = { s with
      mem := m, external := e, sp := s.sp - 3#8, p := Flags.put s.p Flags.iBit true, pc := target } := by
  obtain ⟨_, _, _, _, target, hi, lo, hp, hw, rfl⟩ := State.enter_ok h
  obtain ⟨m, e, rfl⟩ := (((State.store_accesses hi).trans (State.store_accesses lo)).trans
    (State.store_accesses hp)).trans (State.readWord_reads hw).accesses
  exact ⟨m, e, target, rfl⟩

/-- RTI: P and PC popped, bits 4 and 5 of P fixed (R261). -/
theorem State.leave_frame (h : s.leave = .ok t) :
    ∃ e p target, t = { s with external := e, sp := s.sp + 3#8, p := Flags.pulled p, pc := target } := by
  obtain ⟨p, _, _, _, _, _, hp, lo, hi, rfl⟩ := State.leave_ok h
  obtain ⟨e, rfl⟩ := ((State.read_reads hp).trans (State.read_reads lo)).trans (State.read_reads hi)
  exact ⟨e, p, _, rfl⟩

end

/-! ### What each form leaves -/

section
variable {i : Instr} {s t u : State} {w : Word}

theorem onOperand_completes {am : AddressingMode} {ρ : Byte → Regs → Regs} (hρ : ReadOp (mnemonicOf i) ρ)
    (h : onOperand i am (fun m t => t.withRegs (ρ m t.regs)) s = .next t) : Completes i s t := by
  obtain ⟨l, u, m, v, hl, hm, rfl⟩ := onOperand_next h
  obtain ⟨e, rfl⟩ := (locate_reads hl).trans (Located.load_reads hm)
  exact ⟨.reads (r := s.regs) m hρ, id, cost_le ..⟩

theorem storeOperand_completes {am : AddressingMode} {v : Regs → Byte} (hv : StoreOp (mnemonicOf i) v)
    (ha : am ≠ .accumulator) (h : storeOperand i am (fun t => v t.regs) s = .next t) : Completes i s t := by
  obtain ⟨l, u, w, hl, hw, rfl⟩ := storeOperand_next (fun _ => rfl) h
  obtain ⟨e, rfl⟩ := locate_reads hl
  rcases Located.save_ok hw with ⟨rfl, rfl⟩ | ⟨ea, c, -, hs⟩
  · exact absurd (locate_accumulator hl) ha
  · obtain ⟨m, e', rfl⟩ := State.store_accesses hs
    exact ⟨.stores hv, (State.store_wf hs :), cost_le ..⟩

theorem modifyOperand_completes {am : AddressingMode} {new status : Byte → Regs → Byte}
    (hn : ModifyOp (mnemonicOf i) new status) (ho : operandOf i = .mode am)
    (h : modifyOperand i am (fun m t => new m t.regs) (fun m t => status m t.regs) s = .next t) : Completes i s t := by
  obtain ⟨l, u, m, v, w, hl, hm, hw, rfl⟩ := modifyOperand_next (fun _ _ => rfl) (fun _ _ => rfl) h
  obtain ⟨e, rfl⟩ := (locate_reads hl).trans (Located.load_reads hm)
  rcases Located.save_ok hw with ⟨rfl, rfl⟩ | ⟨ea, c, -, hs⟩
  · rw [locate_accumulator hl] at ho
    exact ⟨ho ▸ .modifiesA (r := s.regs) m hn, id, cost_le ..⟩
  · obtain ⟨m', e', rfl⟩ := State.store_accesses hs
    exact ⟨.modifies (r := s.regs) m hn, (State.store_wf hs :), cost_le ..⟩

theorem registers_completes {ρ : Regs → Regs} (hρ : RegisterOp (mnemonicOf i) ρ)
    (h : onRegisters i (fun t => t.withRegs (ρ t.regs)) s = .next t) : Completes i s t := by
  rw [onRegisters_eq] at h
  cases h
  exact ⟨.registers (r := s.regs) hρ, id, cost_le ..⟩

theorem flag_completes {k : Nat} {v : Bool} (hf : FlagOp (mnemonicOf i) k v)
    (h : onRegisters i (fun t => t.setP (Flags.put t.p k v)) s = .next t) : Completes i s t := by
  rw [onRegisters_eq] at h
  cases h
  exact ⟨.flag (r := s.regs) hf, id, cost_le ..⟩

theorem opBranch_completes {k : Nat} {want : Bool} {offset : Byte} (hb : BranchOp (mnemonicOf i) k want)
    (h : opBranch i (fun t => Flags.get t.p k) want offset s = .next t) : Completes i s t := by
  rw [opBranch_eq] at h
  split at h
  all_goals
    cases h
    exact ⟨.branches hb, id, cost_le ..⟩

/-- What an operation of the stack or of the indirect jump has done when it completes: all of it but the cycles. -/
theorem Action.completes {f : State → State → Except Fault State} (hf : Action i f) (hu : f s (s.setPC w) = .ok u) :
    u.cycles = s.cycles ∧ (Memory.wf s.mem → Memory.wf u.mem) ∧
      RegChange (mnemonicOf i) (operandOf i) s.regs u.regs := by
  cases hf with
  | jmpInd pointer =>
    obtain ⟨⟨_, v⟩, hv, hu⟩ := bind_ok.1 hu
    cases hu
    obtain ⟨e, rfl⟩ := State.readWord_reads hv
    exact ⟨rfl, id, .jumps⟩
  | jsr address =>
    obtain ⟨v, hv, hu⟩ := bind_ok.1 hu
    cases hu
    have hw := State.push16_wf hv
    obtain ⟨m, e, rfl⟩ := State.push16_frame hv
    exact ⟨rfl, hw, .stack (r := s.regs) 0#8 .jsr⟩
  | rts =>
    obtain ⟨⟨_, v⟩, hv, hu⟩ := bind_ok.1 hu
    cases hu
    obtain ⟨e, rfl⟩ := State.pop16_frame hv
    exact ⟨rfl, id, .stack (r := s.regs) 0#8 .rts⟩
  | pha =>
    have hw := State.push_wf hu
    obtain ⟨m, e, rfl⟩ := State.push_frame hu
    exact ⟨rfl, hw, .stack (r := s.regs) 0#8 .pha⟩
  | php =>
    have hw := State.push_wf hu
    obtain ⟨m, e, rfl⟩ := State.push_frame hu
    exact ⟨rfl, hw, .stack (r := s.regs) 0#8 .php⟩
  | pla =>
    obtain ⟨⟨b, v⟩, hv, hu⟩ := bind_ok.1 hu
    cases hu
    obtain ⟨e, rfl⟩ := State.pop_frame hv
    exact ⟨rfl, id, .stack (r := s.regs) b .pla⟩
  | plp =>
    obtain ⟨⟨b, v⟩, hv, hu⟩ := bind_ok.1 hu
    cases hu
    obtain ⟨e, rfl⟩ := State.pop_frame hv
    exact ⟨rfl, id, .stack (r := s.regs) b .plp⟩
  | brk =>
    have hw := State.enter_wf hu
    obtain ⟨m, e, target, rfl⟩ := State.enter_frame hu
    exact ⟨rfl, hw, .stack (r := s.regs) 0#8 .brk⟩
  | rti =>
    obtain ⟨e, p, target, rfl⟩ := State.leave_frame hu
    exact ⟨rfl, id, .stack (r := s.regs) p .rti⟩

theorem onStack_completes {f : State → State → Except Fault State} (hf : Action i f)
    (h : onStack i (f s) s = .next t) : Completes i s t := by
  obtain ⟨u, hu, rfl⟩ := onStack_next h
  obtain ⟨hc, hw, hr⟩ := hf.completes hu
  exact ⟨hr, hw, by simpa [hc] using cost_le s i false 0⟩

end

/-- Everything an instruction that completes has done to the registers, to memory's form and to CYCLES. -/
theorem exec_completes {i : Instr} {s t : State} (h : exec i s = .next t) : Completes i s t := by
  cases form_of i with
  | reads am hρ ho hx => exact onOperand_completes hρ (congrFun hx s ▸ h)
  | stores am hv hx ha => exact storeOperand_completes hv ha (congrFun hx s ▸ h)
  | modifies am hm ho hx => exact modifyOperand_completes hm ho (congrFun hx s ▸ h)
  | registers hρ hx => exact registers_completes hρ (congrFun hx s ▸ h)
  | flag hf hx => exact flag_completes hf (congrFun hx s ▸ h)
  | branches offset hb hx => exact opBranch_completes hb (congrFun hx s ▸ h)
  | jmpAbs address =>
    cases h
    exact ⟨.jumps, id, cost_le ..⟩
  | acts hf hx => exact onStack_completes hf (congrFun hx s ▸ h)
  | illegal opcode => cases h

end Sys2Proof.Machine
end

section
/-! Which mnemonics write which register and which bit of P (spec/10_state.md R21 to R37). -/

namespace Sys2Proof.Machine

namespace Flags

/-- P has eight bits. -/
theorem get_of_ge (p : Byte) {j : Nat} (h : 8 ≤ j) : get p j = false := BitVec.getLsbD_of_ge p j h

/-- The bits of P after ADC (R190). -/
theorem get_adcStatus (p a m : Byte) (carry : Bool) (j : Nat) :
    get (adcStatus p a m carry) j =
      if j = nBit then (adcResult a m carry).getLsbD 7
      else if j = zBit then adcResult a m carry == 0#8
      else if j = cBit then decide (255 < adcSum a m carry)
      else if j = vBit then (~~~(a ^^^ m) &&& (a ^^^ adcResult a m carry)).getLsbD 7
      else get p j := by
  simp only [adcStatus, get_setZN, get_put_c, get_put_v]

/-- The bits of P after BIT (R195). -/
theorem get_bitStatus (p a m : Byte) (j : Nat) :
    get (bitStatus p a m) j =
      if j = vBit then m.getLsbD 6
      else if j = nBit then m.getLsbD 7
      else if j = zBit then (a &&& m) == 0#8
      else get p j := by
  simp only [bitStatus, get_put_v, get_put_n, get_put_z]

/-- The bits of P after a compare (R230). -/
theorem get_compareStatus (p reg m : Byte) (j : Nat) :
    get (compareStatus p reg m) j =
      if j = nBit then (reg - m).getLsbD 7
      else if j = zBit then reg == m
      else if j = cBit then decide (m.toNat ≤ reg.toNat)
      else get p j := by
  simp only [compareStatus, get_put_n, get_put_z, get_put_c]

/-- The bits of P after a shift (R220). -/
theorem get_shiftStatus (k : Shift) (p v : Byte) (carry : Bool) (j : Nat) :
    get (shiftStatus k p v carry) j =
      if j = nBit then (shiftResult k v carry).getLsbD 7
      else if j = zBit then shiftResult k v carry == 0#8
      else if j = cBit then shiftOut k v
      else get p j := by
  simp only [shiftStatus, get_setZN, get_put_c]

end Flags

/-- The bits of P that a mnemonic may write, as lists of bit numbers (R27 to R37). -/
def writtenBits (k : Mnemonic) : List Nat :=
  match k with
  | .lda | .ldx | .ldy | .tax | .tay | .txa | .tya | .tsx | .pla | .and | .ora | .eor | .inc | .dec | .inx | .iny
  | .dex | .dey => [Flags.zBit, Flags.nBit]
  | .asl | .lsr | .rol | .ror | .cmp | .cpx | .cpy => [Flags.cBit, Flags.zBit, Flags.nBit]
  | .adc | .sbc => [Flags.cBit, Flags.zBit, Flags.vBit, Flags.nBit]
  | .bit => [Flags.zBit, Flags.vBit, Flags.nBit]
  | .clc | .sec => [Flags.cBit]
  | .cli | .sei | .brk => [Flags.iBit]
  | .cld | .sed => [Flags.dBit]
  | .clv => [Flags.vBit]
  | .plp | .rti => [0, 1, 2, 3, 4, 5, 6, 7]
  | _ => []

section
variable {k : Mnemonic} {o : Operand} {r r' : Regs} {j : Nat}

theorem ReadOp.get_p {ρ : Byte → Regs → Regs} (h : ReadOp k ρ) (m : Byte) (hj : j ∉ writtenBits k) :
    Flags.get (ρ m r).p j = Flags.get r.p j := by
  cases h <;> simp_all [writtenBits, Regs.add, Flags.get_setZN, Flags.get_adcStatus, Flags.get_bitStatus,
    Flags.get_compareStatus]

theorem ModifyOp.get_status {new status : Byte → Regs → Byte} (h : ModifyOp k new status) (m : Byte)
    (hj : j ∉ writtenBits k) : Flags.get (status m r) j = Flags.get r.p j := by
  cases h <;> simp_all [writtenBits, Flags.get_setZN, Flags.get_shiftStatus]

theorem RegisterOp.get_p {ρ : Regs → Regs} (h : RegisterOp k ρ) (hj : j ∉ writtenBits k) :
    Flags.get (ρ r).p j = Flags.get r.p j := by
  cases h <;> simp_all [writtenBits, Flags.get_setZN]

theorem FlagOp.get_put {b : Nat} {v : Bool} (h : FlagOp k b v) (hj : j ∉ writtenBits k) (p : Byte) :
    Flags.get (Flags.put p b v) j = Flags.get p j := by
  cases h <;> simp_all [writtenBits]

theorem StackOp.get_p {ρ : Byte → Regs → Regs} (h : StackOp k ρ) (m : Byte) (hj : j ∉ writtenBits k) :
    Flags.get (ρ m r).p j = Flags.get r.p j := by
  cases h with
  | plp | rti =>
    have hj8 : 8 ≤ j := by simp only [writtenBits, List.mem_cons] at hj; omega
    rw [Flags.get_of_ge _ hj8, Flags.get_of_ge _ hj8]
  | _ => simp_all [writtenBits, Flags.get_setZN]

/-- An instruction leaves every bit of P that its mnemonic does not write. -/
theorem RegChange.get_p (h : RegChange k o r r') (hj : j ∉ writtenBits k) :
    Flags.get r'.p j = Flags.get r.p j := by
  cases h with
  | reads m hρ => exact hρ.get_p m hj
  | modifiesA m hm | modifies m hm => exact hm.get_status m hj
  | registers hρ => exact hρ.get_p hj
  | flag hf => exact hf.get_put hj _
  | stack m hρ => exact hρ.get_p m hj
  | stores | branches | jumps => rfl

/-! ### The mnemonics that write each bit -/

theorem mem_of_c_written : Flags.cBit ∈ writtenBits k →
    k ∈ [.adc, .sbc, .asl, .lsr, .rol, .ror, .cmp, .cpx, .cpy, .clc, .sec, .plp, .rti] := by
  cases k <;> decide

theorem mem_of_zn_written : Flags.zBit ∈ writtenBits k ∨ Flags.nBit ∈ writtenBits k →
    k ∈ [.lda, .ldx, .ldy, .tax, .tay, .txa, .tya, .tsx, .pla, .and, .ora, .eor, .inc, .dec, .inx, .iny, .dex, .dey,
      .adc, .sbc, .asl, .lsr, .rol, .ror, .cmp, .cpx, .cpy, .bit, .plp, .rti] := by
  cases k <;> decide

theorem mem_of_i_written : Flags.iBit ∈ writtenBits k → k ∈ [.sei, .cli, .brk, .plp, .rti] := by
  cases k <;> decide

theorem mem_of_d_written : Flags.dBit ∈ writtenBits k → k ∈ [.sed, .cld, .plp, .rti] := by
  cases k <;> decide

theorem mem_of_v_written : Flags.vBit ∈ writtenBits k → k ∈ [.adc, .sbc, .bit, .clv, .plp, .rti] := by
  cases k <;> decide

theorem mem_of_fixed_written : Flags.bBit ∈ writtenBits k ∨ Flags.uBit ∈ writtenBits k → k ∈ [.plp, .rti] := by
  cases k <;> decide

/-! ### The mnemonics that write each register -/

theorem RegChange.a_eq (h : RegChange k o r r') (hk : k ∉ [.lda, .adc, .sbc, .and, .ora, .eor, .pla, .txa, .tya])
    (ho : o ≠ .mode .accumulator) : r'.a = r.a := by
  cases h with
  | reads m hρ | registers hρ | stack m hρ => cases hρ <;> simp_all
  | modifiesA m hm => exact absurd rfl ho
  | stores | modifies | flag | branches | jumps => rfl

theorem RegChange.x_eq (h : RegChange k o r r') (hk : k ∉ [.ldx, .tax, .tsx, .inx, .dex]) : r'.x = r.x := by
  cases h with
  | reads m hρ | registers hρ | stack m hρ => cases hρ <;> simp_all [Regs.add]
  | stores | modifiesA | modifies | flag | branches | jumps => rfl

theorem RegChange.y_eq (h : RegChange k o r r') (hk : k ∉ [.ldy, .tay, .iny, .dey]) : r'.y = r.y := by
  cases h with
  | reads m hρ | registers hρ | stack m hρ => cases hρ <;> simp_all [Regs.add]
  | stores | modifiesA | modifies | flag | branches | jumps => rfl

theorem RegChange.sp_eq (h : RegChange k o r r')
    (hk : k ∉ [.pha, .php, .pla, .plp, .jsr, .rts, .brk, .rti, .txs]) : r'.sp = r.sp := by
  cases h with
  | reads m hρ | registers hρ | stack m hρ => cases hρ <;> simp_all [Regs.add]
  | stores | modifiesA | modifies | flag | branches | jumps => rfl

/-! ### The fixed bits of P -/

/-- PLP and RTI write P from a popped byte. -/
theorem RegChange.p_eq_pulled (h : RegChange k o r r') (hk : k ∈ [.plp, .rti]) : ∃ m, r'.p = Flags.pulled m := by
  cases h with
  | stack m hρ =>
    cases hρ with
    | plp | rti => exact ⟨m, rfl⟩
    | _ => simp at hk
  | reads _ hop | stores hop | modifiesA _ hop | modifies _ hop | registers hop | flag hop | branches hop =>
    cases hop <;> simp at hk
  | jumps => simp at hk

theorem statusFixed_pulled (m : Byte) : Safety.statusFixed (Flags.pulled m) := by
  simp [Safety.statusFixed, Flags.get_pulled]

/-- Bits 4 and 5 of P stay as they must be, by not being written or by PLP and RTI writing them so (R31, R32, D7). -/
theorem RegChange.statusFixed (h : RegChange k o r r') (hr : Safety.statusFixed r.p) : Safety.statusFixed r'.p := by
  by_cases hk : k ∈ [.plp, .rti]
  · obtain ⟨m, hm⟩ := h.p_eq_pulled hk
    exact hm ▸ statusFixed_pulled m
  · obtain ⟨hu, hb⟩ := hr
    exact ⟨(h.get_p fun hj => hk (mem_of_fixed_written (.inr hj))).trans hu,
      (h.get_p fun hj => hk (mem_of_fixed_written (.inl hj))).trans hb⟩

end

end Sys2Proof.Machine
end

section
/-! The kinds of step, and what each leaves of the invariant and of CYCLES (spec/40_engine_addressing.md R130 to
R135). -/

namespace Sys2Proof.Machine

section
variable {i : Instr} {s t : State}

/-- Fetching reads and does nothing else. -/
theorem fetch_reads (h : fetch s = .ok (i, t)) : s.Reads t := by
  obtain ⟨⟨op, u⟩, hu, h⟩ := bind_ok.1 h
  have hop := State.read_reads hu
  dsimp only at h
  split at h
  · cases h
    exact hop
  · obtain ⟨⟨b1, v⟩, hv, h⟩ := bind_ok.1 h
    cases h
    exact hop.trans (State.read_reads hv)
  · obtain ⟨⟨b1, v⟩, hv, h⟩ := bind_ok.1 h
    obtain ⟨⟨b2, w⟩, hw, h⟩ := bind_ok.1 h
    cases h
    exact (hop.trans (State.read_reads hv)).trans (State.read_reads hw)

theorem finish_next {r : Except Fault State} (h : finish r = .next t) : r = .ok t := by
  cases r with
  | ok u => cases h; rfl
  | error f => cases h

theorem instructionStep_next (h : instructionStep s = .next t) : ∃ i u, fetch s = .ok (i, u) ∧ exec i u = .next t := by
  unfold instructionStep at h
  cases hf : fetch s with
  | ok r => exact ⟨r.1, r.2, rfl, by simpa [hf] using h⟩
  | error f => simp [hf] at h

/-- A step that completes is a stall step, an interrupt step or an instruction step, in this order (R130, R313). -/
theorem step_cases (h : step s = .next t) :
    s.fault = none ∧
      ((s.stall ≠ 0#8 ∧ t = s.stallStep) ∨
      (s.stall = 0#8 ∧ ∃ k, s.poll = some k ∧ s.interruptEntry k = .ok t) ∨
      (s.stall = 0#8 ∧ s.poll = none ∧ ∃ i u, fetch s = .ok (i, u) ∧ exec i u = .next t)) := by
  unfold step takeStep at h
  cases hf : s.fault with
  | some f => simp [hf] at h
  | none =>
    refine ⟨rfl, ?_⟩
    simp only [hf] at h
    by_cases hs : s.stall = 0#8
    · rw [if_neg (by simp [hs])] at h
      cases hp : s.poll with
      | some k => exact .inr (.inl ⟨hs, k, rfl, finish_next (by simpa [hp, interruptStep] using h)⟩)
      | none => exact .inr (.inr ⟨hs, rfl, instructionStep_next (by simpa [hp] using h)⟩)
    · rw [if_pos (by simpa using hs)] at h
      cases h
      exact .inl ⟨hs, rfl⟩

/-- What an interrupt step leaves: an entry with the request taken back, and the entry's cycles (R132, R310). -/
theorem State.interruptEntry_frame {k : InterruptKind} (h : s.interruptEntry k = .ok t) :
    ∃ m e target, t = { s with
      interrupt := .none, mem := m, external := e, sp := s.sp - 3#8, p := Flags.put s.p Flags.iBit true, pc := target,
      cycles := s.cycles + s.timing.entry } := by
  obtain ⟨u, hu, h⟩ := bind_ok.1 h
  cases h
  obtain ⟨m, e, target, rfl⟩ := State.enter_frame hu
  exact ⟨m, e, target, rfl⟩

theorem State.interruptEntry_wf {k : InterruptKind} (h : s.interruptEntry k = .ok t) (hw : Memory.wf s.mem) :
    Memory.wf t.mem := by
  obtain ⟨u, hu, h⟩ := bind_ok.1 h
  cases h
  exact (State.enter_wf hu hw :)

/-! ### The invariant -/

theorem exec_keeps_inv (h : exec i s = .next t) (hs : Safety.Inv s) : Safety.Inv t := by
  obtain ⟨hp, hw⟩ := hs
  have hc := exec_completes h
  exact ⟨hc.regs.statusFixed hp, hc.wf hw⟩

theorem State.interruptEntry_keeps_inv {k : InterruptKind} (h : s.interruptEntry k = .ok t) (hs : Safety.Inv s) :
    Safety.Inv t := by
  obtain ⟨⟨hu, hb⟩, hw⟩ := hs
  refine ⟨?_, State.interruptEntry_wf h hw⟩
  obtain ⟨m, e, target, rfl⟩ := State.interruptEntry_frame h
  exact ⟨by simp [hu], by simp [hb]⟩

theorem step_keeps_inv (h : step s = .next t) (hs : Safety.Inv s) : Safety.Inv t := by
  obtain ⟨-, ⟨-, rfl⟩ | ⟨-, k, -, hk⟩ | ⟨-, -, i, u, hf, hx⟩⟩ := step_cases h
  · exact hs
  · exact State.interruptEntry_keeps_inv hk hs
  · obtain ⟨e, rfl⟩ := fetch_reads hf
    exact exec_keeps_inv hx hs

/-! ### Cycles -/

/-- Every assigned opcode costs at least one cycle by the table of R110. -/
theorem entryOf_base_pos (h : mnemonicOf i ≠ .illegal) : 0 < (entryOf i).base := by
  cases i with
  | illegal opcode => exact absurd rfl h
  | _ => exact Nat.succ_pos _

/-- A TIMING that charges every step charges every official instruction. -/
theorem costOf_base_pos {timing : Config.Timing} (ht : Claims.chargesAll timing) (h : mnemonicOf i ≠ .illegal) :
    0 < (costOf timing i).base := by
  unfold costOf
  split
  · rename_i c hc
    obtain ⟨before, after, hl, -⟩ := List.lookup_eq_some_iff.1 hc
    exact ht.2 (opcodeOf i, c) (by simp [hl])
  · exact entryOf_base_pos h

theorem exec_next_not_illegal (h : exec i s = .next t) : mnemonicOf i ≠ .illegal := by
  cases i with
  | illegal opcode => cases h
  | _ => exact nofun

/-- The cycles of each kind of step: 1, those of the entry, or at least the base of an instruction (R131, R132,
R134). -/
theorem step_cycles (h : step s = .next t) :
    t.cycles = s.cycles + 1 ∨ t.cycles = s.cycles + s.timing.entry ∨
      ∃ i, mnemonicOf i ≠ .illegal ∧ s.cycles + (costOf s.timing i).base ≤ t.cycles := by
  obtain ⟨-, ⟨-, rfl⟩ | ⟨-, k, -, hk⟩ | ⟨-, -, i, u, hf, hx⟩⟩ := step_cases h
  · exact .inl rfl
  · obtain ⟨m, e, target, rfl⟩ := State.interruptEntry_frame hk
    exact .inr (.inl rfl)
  · obtain ⟨e, rfl⟩ := fetch_reads hf
    exact .inr (.inr ⟨i, exec_next_not_illegal hx, (exec_completes hx).cost⟩)

end

end Sys2Proof.Machine
end

section
/-! A change of state that an operation does not see and keeps, form by form of instruction, and D as such a change
(spec/10_state.md R30). -/

namespace Sys2Proof.Machine

/-- The outcome with a change applied to the next state. -/
def mapNext (g : State → State) (o : Host.Outcome State Fault Refusal) : Host.Outcome State Fault Refusal :=
  match o with
  | .next t => .next (g t)
  | .fault f => .fault f
  | .refused r => .refused r

/-- A change of state that the port does not see (`Inert`) and that leaves PC, SP, A, X, Y and TIMING: what an operation
computes from these it computes as before, and the change commutes with the writes an operation makes. -/
structure Hidden (g : State → State) : Prop extends Inert g where
  pc : ∀ s, (g s).pc = s.pc
  sp : ∀ s, (g s).sp = s.sp
  a : ∀ s, (g s).a = s.a
  x : ∀ s, (g s).x = s.x
  y : ∀ s, (g s).y = s.y
  timing : ∀ s, (g s).timing = s.timing
  setPC : ∀ s w, g (s.setPC w) = (g s).setPC w
  setSP : ∀ s v, g (s.setSP v) = (g s).setSP v
  setA : ∀ s v, g (State.setA s v) = (g s).setA v
  addCycles : ∀ s n, g (s.addCycles n) = (g s).addCycles n

namespace Hidden

section
variable {g : State → State} (hg : Hidden g)
include hg

theorem execute {i : Instr} {op op' : State → Except Fault (State × Nat)} {s : State}
    (hop : ∀ w, op' (g (s.setPC w)) = (op (s.setPC w)).map fun r => (g r.1, r.2)) :
    execute i op' (g s) = mapNext g (execute i op s) := by
  unfold Machine.execute
  rw [nextPC, hg.pc, ← nextPC, ← hg.setPC, hop]
  cases op (s.setPC (nextPC i s)) with
  | error f => rfl
  | ok r => exact congrArg Host.Outcome.next (hg.addCycles r.1 r.2).symm

theorem onRegisters {i : Instr} {f : State → State} (hf : ∀ t, f (g t) = g (f t)) (s : State) :
    onRegisters i f (g s) = mapNext g (onRegisters i f s) :=
  hg.execute fun w => by rw [hf, hg.timing]; rfl

theorem onStack {i : Instr} {f f' : State → Except Fault State} {s : State}
    (hf : ∀ w, f' (g (s.setPC w)) = (f (s.setPC w)).map g) :
    onStack i f' (g s) = mapNext g (onStack i f s) :=
  hg.execute fun w => by
    rw [hf, hg.timing]
    cases f (s.setPC w) <;> rfl

theorem onOperand {i : Instr} {am : AddressingMode} {f : Byte → State → State} (hf : ∀ m t, f m (g t) = g (f m t))
    (s : State) : onOperand i am f (g s) = mapNext g (onOperand i am f s) := by
  refine hg.execute fun w => ?_
  simp only [hg.locate am _ (hg.x _) (hg.y _), hg.timing]
  cases locate am (s.setPC w) with
  | error e => rfl
  | ok a =>
    simp only [Except.map, bind, Except.bind, hg.loadLocated _ _ (hg.a _)]
    cases a.1.load a.2 with
    | error e => rfl
    | ok b => simp only [hf]; rfl

theorem storeOperand {i : Instr} {am : AddressingMode} {v : State → Byte} (hv : ∀ t, v (g t) = v t) (s : State) :
    storeOperand i am v (g s) = mapNext g (storeOperand i am v s) := by
  refine hg.execute fun w => ?_
  simp only [hg.locate am _ (hg.x _) (hg.y _), hg.timing, hv]
  cases locate am (s.setPC w) with
  | error e => rfl
  | ok a =>
    simp only [Except.map, bind, Except.bind, hg.saveLocated _ _ _ hg.setA]
    cases a.1.save (v (s.setPC w)) a.2 <;> rfl

theorem modifyOperand {i : Instr} {am : AddressingMode} {r p : Byte → State → Byte} (hr : ∀ m t, r m (g t) = r m t)
    (hp : ∀ m t u, (g u).setP (p m (g t)) = g (u.setP (p m t))) (s : State) :
    modifyOperand i am r p (g s) = mapNext g (modifyOperand i am r p s) := by
  refine hg.execute fun w => ?_
  simp only [hg.locate am _ (hg.x _) (hg.y _), hg.timing, hr]
  cases locate am (s.setPC w) with
  | error e => rfl
  | ok a =>
    simp only [Except.map, bind, Except.bind, hg.loadLocated _ _ (hg.a _)]
    cases a.1.load a.2 with
    | error e => rfl
    | ok b =>
      simp only [Except.map, hg.saveLocated _ _ _ hg.setA]
      cases a.1.save (r b.1 (s.setPC w)) b.2 with
      | error e => rfl
      | ok c => simp only [hp]; rfl

theorem opBranch {i : Instr} {flag : State → Bool} {want : Bool} {offset : Byte} (hf : ∀ t, flag (g t) = flag t)
    (s : State) : opBranch i flag want offset (g s) = mapNext g (opBranch i flag want offset s) := by
  refine hg.execute fun w => ?_
  simp only [hf, hg.timing, hg.pc]
  split
  · rw [← hg.setPC]; rfl
  · rfl

theorem push (s : State) (v : Byte) : (g s).push v = (s.push v).map g := by
  simp only [State.push, hg.sp, hg.store]
  cases s.store (stackAddress s.sp) v with
  | error e => rfl
  | ok t => exact congrArg Except.ok (hg.setSP t _).symm

theorem push16 (s : State) (w : Word) : (g s).push16 w = (s.push16 w).map g := by
  simp only [State.push16, hg.push]
  cases s.push (Bits.hiByte w) with
  | error e => rfl
  | ok t => exact hg.push t _

theorem pop (s : State) : (g s).pop = s.pop.map fun r => (r.1, g r.2) := by
  simp only [State.pop, hg.sp, hg.read]
  cases s.read (stackAddress (s.sp + 1#8)) with
  | error e => rfl
  | ok r => exact congrArg (fun t => Except.ok (r.1, t)) (hg.setSP r.2 _).symm

theorem pop16 (s : State) : (g s).pop16 = s.pop16.map fun r => (r.1, g r.2) := by
  simp only [State.pop16, hg.pop]
  cases s.pop with
  | error e => rfl
  | ok r =>
    simp only [Except.map, bind, Except.bind, hg.pop]
    cases r.2.pop <;> rfl

end

end Hidden

/-! ### D -/

/-- P with D replaced. -/
def Flags.putD (b : Bool) (p : Byte) : Byte := Flags.put p Flags.dBit b

/-- The state with D replaced. -/
def State.putD (b : Bool) (s : State) : State := s.setP (Flags.putD b s.p)

/-- The registers with D replaced. -/
def Regs.putD (b : Bool) (r : Regs) : Regs := { r with p := Flags.putD b r.p }

theorem hidden_putD (b : Bool) : Hidden (State.putD b) where
  map _ := rfl
  mem _ := rfl
  external _ := rfl
  setMem _ _ := rfl
  setExternal _ _ := rfl
  pc _ := rfl
  sp _ := rfl
  a _ := rfl
  x _ := rfl
  y _ := rfl
  timing _ := rfl
  setPC _ _ := rfl
  setSP _ _ := rfl
  setA _ _ := rfl
  addCycles _ _ := rfl

namespace Flags

/-- A status byte is its eight bits. -/
theorem ext {p q : Byte} (h : ∀ j, get p j = get q j) : p = q := BitVec.eq_of_getLsbD_eq fun j _ => h j

/-- Writes of two different bits commute. -/
theorem put_comm (p : Byte) {j k : Nat} (v w : Bool) (hj : j ≤ 7) (hk : k ≤ 7) (hne : j ≠ k) :
    put (put p j v) k w = put (put p k w) j v := by
  refine ext fun l => ?_
  simp only [get_put _ _ _ hj, get_put _ _ _ hk]
  split <;> split <;> simp_all

section
variable (b : Bool) (p : Byte)

theorem get_putD {j : Nat} (hj : j ≠ dBit) : get (putD b p) j = get p j := by simp [putD, hj]

theorem put_putD {k : Nat} (v : Bool) (hk : k ≤ 7) (hd : k ≠ dBit) : put (putD b p) k v = putD b (put p k v) :=
  put_comm p b v (by decide) hk hd.symm

theorem setZN_putD (v : Byte) : setZN (putD b p) v = putD b (setZN p v) := by
  simp (disch := decide) only [setZN, put_putD]

theorem adcStatus_putD (a m : Byte) (carry : Bool) :
    adcStatus (putD b p) a m carry = putD b (adcStatus p a m carry) := by
  simp (disch := decide) only [adcStatus, put_putD, setZN_putD]

theorem bitStatus_putD (a m : Byte) : bitStatus (putD b p) a m = putD b (bitStatus p a m) := by
  simp (disch := decide) only [bitStatus, put_putD]

theorem compareStatus_putD (reg m : Byte) : compareStatus (putD b p) reg m = putD b (compareStatus p reg m) := by
  simp (disch := decide) only [compareStatus, put_putD]

theorem shiftStatus_putD (k : Shift) (v : Byte) (carry : Bool) :
    shiftStatus k (putD b p) v carry = putD b (shiftStatus k p v carry) := by
  simp (disch := decide) only [shiftStatus, put_putD, setZN_putD]

end

end Flags

section
variable {k : Mnemonic} (b : Bool)

theorem ReadOp.putD {ρ : Byte → Regs → Regs} (h : ReadOp k ρ) (m : Byte) (r : Regs) :
    ρ m (r.putD b) = (ρ m r).putD b := by
  cases h <;> simp [Regs.putD, Regs.add, Flags.get_putD, Flags.setZN_putD, Flags.adcStatus_putD, Flags.bitStatus_putD,
    Flags.compareStatus_putD]

theorem RegisterOp.putD {ρ : Regs → Regs} (h : RegisterOp k ρ) (r : Regs) : ρ (r.putD b) = (ρ r).putD b := by
  cases h <;> simp [Regs.putD, Flags.setZN_putD]

theorem StoreOp.putD {v : Regs → Byte} (h : StoreOp k v) (r : Regs) : v (r.putD b) = v r := by
  cases h <;> rfl

theorem ModifyOp.putD {new status : Byte → Regs → Byte} (h : ModifyOp k new status) (m : Byte) (r : Regs) :
    new m (r.putD b) = new m r ∧ status m (r.putD b) = Flags.putD b (status m r) := by
  cases h <;> simp [Regs.putD, Flags.get_putD, Flags.setZN_putD, Flags.shiftStatus_putD]

theorem FlagOp.putD {j : Nat} {v : Bool} (h : FlagOp k j v) (hk : k ∉ [.cld, .sed]) (p : Byte) :
    Flags.put (Flags.putD b p) j v = Flags.putD b (Flags.put p j v) := by
  cases h with
  | cld | sed => simp at hk
  | _ => exact Flags.put_putD b p _ (by decide) (by decide)

theorem BranchOp.putD {j : Nat} {v : Bool} (h : BranchOp k j v) (p : Byte) :
    Flags.get (Flags.putD b p) j = Flags.get p j := by
  cases h <;> simp [Flags.get_putD]

/-- The operations of the stack and of the indirect jump that neither push P nor write D. -/
theorem Action.putD {i : Instr} {f : State → State → Except Fault State} (hf : Action i f)
    (hi : mnemonicOf i ∉ [.php, .brk, .plp, .rti]) (s t : State) :
    f (s.putD b) (t.putD b) = (f s t).map (State.putD b) := by
  have hg := hidden_putD b
  cases hf with
  | jmpInd pointer =>
    simp only [State.readInPage, hg.readWord]
    cases t.readWord pointer (nextInPage pointer) <;> rfl
  | jsr address =>
    simp only [hg.push16, hg.pc]
    cases t.push16 (s.pc + 2#16) <;> rfl
  | rts =>
    simp only [hg.pop16]
    cases t.pop16 <;> rfl
  | pha => exact hg.push t t.a
  | pla =>
    simp only [hg.pop]
    cases t.pop with
    | error e => rfl
    | ok r => exact congrArg (fun p => Except.ok ((r.2.setA r.1).setP p)) (Flags.setZN_putD b r.2.p r.1)
  | php | plp | brk | rti => simp [mnemonicOf] at hi

end

/-- An instruction that neither pushes P nor writes D runs the same with D replaced, before and after. -/
theorem exec_putD {i : Instr} (hi : mnemonicOf i ∉ [.php, .brk, .plp, .rti, .cld, .sed]) (b : Bool) (s : State) :
    exec i (s.putD b) = mapNext (State.putD b) (exec i s) := by
  have hg := hidden_putD b
  cases form_of i with
  | reads am hρ ho hx =>
    rw [hx]
    exact hg.onOperand (fun m t => congrArg t.withRegs (hρ.putD b m t.regs)) s
  | stores am hv hx ha =>
    rw [hx]
    exact hg.storeOperand (fun t => hv.putD b t.regs) s
  | modifies am hm ho hx =>
    rw [hx]
    refine hg.modifyOperand (fun m t => (hm.putD b m t.regs).1) (fun m t u => ?_) s
    exact congrArg u.setP (hm.putD b m t.regs).2
  | registers hρ hx =>
    rw [hx]
    exact hg.onRegisters (fun t => congrArg t.withRegs (hρ.putD b t.regs)) s
  | flag hf hx =>
    rw [hx]
    exact hg.onRegisters (fun t => congrArg t.setP (hf.putD b (by simp_all) t.p)) s
  | branches offset hb hx =>
    rw [hx]
    exact hg.opBranch (fun t => hb.putD b t.p) s
  | jmpAbs address => exact hg.onRegisters (f := fun t => t.setPC address) (fun _ => rfl) s
  | acts hf hx =>
    rw [hx]
    exact hg.onStack fun w => hf.putD b (by simp_all) s (s.setPC w)
  | illegal opcode => rfl

end Sys2Proof.Machine
end

section
/-! The obligations about the state (spec/10_state.md). -/

namespace Sys2Proof.Proofs

open Sys2Proof.Machine Sys2Proof.Safety

/-- Settles O1: State.reset holds these values. -/
theorem resetState : Obligations.ResetState :=
  ⟨rfl, rfl, rfl, rfl, rfl, rfl, rfl, rfl, rfl, rfl⟩

/-- Settles O2: P is 0x20 and memory lists nothing. -/
theorem invariantAtReset : Obligations.InvariantAtReset :=
  ⟨⟨rfl, rfl⟩, State.reset_wf⟩

/-- Settles O3, by the kind of step and, for an instruction, by what its form does to P and to memory. -/
theorem stepKeepsInvariant : Obligations.StepKeepsInvariant := fun _ _ hs h => step_keeps_inv h hs

/-- Settles O4: the host's operations write neither memory nor, but for Reset, P; its step is a step or records a
fault. -/
theorem hostOperationsKeepInvariant : Obligations.HostOperationsKeepInvariant := by
  intro s w n hs
  have hreset : Inv s.hostReset := ⟨invariantAtReset.1, hs.2⟩
  have hirq : Inv s.raiseIRQ := by
    unfold State.raiseIRQ
    split <;> exact hs
  have hstep : Inv s.hostStep := by
    unfold State.hostStep
    split
    · exact step_keeps_inv ‹_› hs
    · exact hs
    · exact hs
  exact ⟨hreset, hs, hs, hs, hirq, hstep⟩

/-- Settles O5, bit by bit of SetZN's result. -/
theorem setZNWritesTwoBits : Obligations.SetZNWritesTwoBits := by
  intro s v
  have hz : (s.setZN v).z = (v == 0#8) := Flags.get_setZN ..
  have hn : (s.setZN v).n = v.getLsbD 7 := Flags.get_setZN ..
  have hbit : v &&& 0x80#8 = if v.getLsbD 7 then 0x80#8 else 0#8 := BitVec.and_twoPow v 7
  refine ⟨by rw [hz, beq_iff_eq], ?_, fun k hkz hkn => ?_, ?_, rfl⟩
  · rw [hn, hbit]
    cases v.getLsbD 7 <;> simp
  · exact (Flags.get_setZN ..).trans (by rw [if_neg hkn, if_neg hkz])
  · rintro ⟨h0, h7⟩
    rw [hz, beq_iff_eq] at h0
    subst h0
    rw [hn] at h7
    exact absurd h7 (by decide)

/-- Settles O6, by the bounds check and the bits that a named-bit write leaves. -/
theorem namedBitAccess : Obligations.NamedBitAccess := by
  intro s k v
  refine ⟨fun hk => ⟨if_neg (by omega), _, State.setBit_eq s v hk, ?_, fun j hj => ?_, rfl⟩,
    fun hk => ⟨if_pos hk, if_pos hk⟩⟩
  · exact (Flags.get_put s.p k v hk).trans (if_pos rfl)
  · exact (Flags.get_put s.p j v hk).trans (if_neg hj)

/-- Settles O19, by the kind of step. -/
theorem cyclesAlwaysGrow : Obligations.CyclesAlwaysGrow := by
  refine ⟨fun s t h => ?_, by decide, by simp [Config.standardTiming]⟩
  obtain h1 | h1 | ⟨i, hi, h1⟩ := step_cycles h
  · exact ⟨by omega, fun _ => by omega⟩
  · exact ⟨by omega, fun ht => by have := ht.1; omega⟩
  · exact ⟨by omega, fun ht => by have := costOf_base_pos ht hi; omega⟩

/-- Settles O21: replacing D commutes with every form of instruction that neither pushes P nor writes D. -/
theorem decimalFlagIsInert : Obligations.DecimalFlagIsInert := by
  intro i s b hi
  have hx := exec_putD hi b s
  exact ⟨fun t ht => by rw [ht] at hx; exact hx, fun f hf => by rw [hf] at hx; exact hx⟩

/-- Settles O52, register by register. -/
theorem registerFrame : Obligations.RegisterFrame := by
  intro i s t h
  have hr := (exec_completes h).regs
  exact ⟨hr.a_eq, hr.x_eq, hr.y_eq, hr.sp_eq⟩

/-- Settles O53, bit by bit of P: a bit that the mnemonic does not write keeps its value. -/
theorem flagFrame : Obligations.FlagFrame := by
  intro i s t h
  have hbit {j : Nat} (hj : j ∉ writtenBits (mnemonicOf i)) := (exec_completes h).regs.get_p hj
  exact ⟨fun hk => hbit (mt mem_of_c_written hk),
    fun hk => ⟨hbit fun hj => hk (mem_of_zn_written (.inl hj)), hbit fun hj => hk (mem_of_zn_written (.inr hj))⟩,
    fun hk => hbit (mt mem_of_i_written hk), fun hk => hbit (mt mem_of_d_written hk),
    fun hk => hbit (mt mem_of_v_written hk),
    fun hk => ⟨hbit fun hj => hk (mem_of_fixed_written (.inl hj)),
      hbit fun hj => hk (mem_of_fixed_written (.inr hj))⟩⟩

end Sys2Proof.Proofs
end

section
/-! What the port answers to a load and to a store, from where the map sends the address (spec/20_memory.md R61, R66,
R68, R69). -/

namespace Sys2Proof.Machine

/-! ### Places and policies of the documented map -/

section
variable {mirroring : Bool} {cartridge : List Config.Region} {a : Word}

theorem Memory.placeOf_mirror (hlow : ¬ a.toNat < 0x0800) (h : a.toNat < 0x2000) :
    Memory.placeOf (.documented true cartridge) a = .cell (a.toNat % 0x0800) := by
  simp [Memory.placeOf, hlow, h]

/-- The addresses that nothing answers: the mirror of RAM where RAM_MIRRORING is off, and the I/O registers (R68). -/
theorem Memory.placeOf_unimplemented (hlow : ¬ a.toNat < 0x0800) (hmirror : ¬ (a.toNat < 0x2000 ∧ mirroring = true))
    (h : a.toNat < 0x4020) : Memory.placeOf (.documented mirroring cartridge) a = .absent := by
  by_cases ha : a.toNat < 0x2000
  · have hm : mirroring = false := by simpa [ha] using hmirror
    simp [Memory.placeOf, hlow, ha, hm]
  · simp [Memory.placeOf, hlow, ha, h]

theorem Memory.placeOf_cartridge (h : ¬ a.toNat < 0x4020) :
    Memory.placeOf (.documented mirroring cartridge) a = placeIn cartridge a.toNat := by
  have hlow : ¬ a.toNat < 0x0800 := by omega
  have hmirror : ¬ a.toNat < 0x2000 := by omega
  simp [Memory.placeOf, hlow, hmirror, h]

theorem Memory.policyOf_internal (h : a.toNat < 0x4020) :
    Memory.policyOf (.documented mirroring cartridge) a = .keeps := if_pos h

theorem Memory.policyOf_cartridge (h : ¬ a.toNat < 0x4020) :
    Memory.policyOf (.documented mirroring cartridge) a = policyIn cartridge a.toNat := if_neg h

end

/-! ### What a store does at each place -/

section
variable {m : Config.MemMap} {a : Word} {c : Nat}

theorem Memory.storeEffect_of_absent (h : Memory.placeOf m a = .absent) : Memory.storeEffect m a = .refused := by
  simp only [Memory.storeEffect, h]

theorem Memory.storeEffect_of_keeps (h : Memory.placeOf m a = .cell c) (hp : Memory.policyOf m a = .keeps) :
    Memory.storeEffect m a = .writes c := by simp only [Memory.storeEffect, h, hp]

theorem Memory.storeEffect_of_ignores (h : Memory.placeOf m a = .cell c) (hp : Memory.policyOf m a = .ignores) :
    Memory.storeEffect m a = .dropped := by simp only [Memory.storeEffect, h, hp]

theorem Memory.storeEffect_of_refuses (h : Memory.placeOf m a = .cell c) (hp : Memory.policyOf m a = .refuses) :
    Memory.storeEffect m a = .refused := by simp only [Memory.storeEffect, h, hp]

end

/-! ### What the port answers at each place -/

section
variable {s : State} {a : Word} {v : Byte}

theorem State.read_of_absent (h : Memory.placeOf s.map a = .absent) :
    s.read a = .error (.unimplementedMemory a .read) := by
  rw [State.read_error]
  simp only [State.load, h]

theorem State.loaded_of_external (h : Memory.placeOf s.map a = .external) :
    s.loaded a = s.setExternal (.read a :: s.external) := by
  simp only [State.loaded, h]

theorem State.read_of_answer (h : Memory.placeOf s.map a = .external)
    (hv : Config.externalLoad s.external a = some v) :
    s.read a = .ok (v, s.setExternal (.read a :: s.external)) := by
  rw [State.read_ok, State.loaded_of_external h]
  exact ⟨by simp only [State.load, h, hv], rfl⟩

theorem State.read_of_no_answer (h : Memory.placeOf s.map a = .external)
    (hv : Config.externalLoad s.external a = none) : s.read a = .error (.unimplementedMemory a .read) := by
  rw [State.read_error]
  simp only [State.load, h, hv]

theorem State.store_of_dropped (h : Memory.storeEffect s.map a = .dropped) : s.store a v = .ok s := by
  simp only [State.store, h]

theorem State.store_of_refused (h : Memory.storeEffect s.map a = .refused) :
    s.store a v = .error (.unimplementedMemory a .write) := by
  simp only [State.store, h]

theorem State.store_of_external (h : Memory.placeOf s.map a = .external) :
    s.store a v = if Config.externalStore s.external a v then .ok (s.setExternal (.write a v :: s.external))
      else .error (.unimplementedMemory a .write) := by
  simp only [State.store, Memory.storeEffect_external.2 h]

end

/-- The state after a read: only an external region remembers it (R66). -/
theorem State.loaded_eq_ite (s : State) (a : Word) :
    s.loaded a =
      if Memory.placeOf s.map a = .external then s.setExternal (.read a :: s.external) else s := by
  split
  case isTrue h => exact State.loaded_of_external h
  case isFalse h => exact State.loaded_of_not_external h

/-- A written cell answers its new byte at every address it has, and no other address answers otherwise than before. -/
theorem State.load_write (s : State) (c : Nat) (v : Byte) (b : Word) :
    (s.setMem (Memory.write s.mem c v)).load b = if Memory.placeOf s.map b = .cell c then .ok v else s.load b := by
  cases hb : Memory.placeOf s.map b with
  | cell d =>
    have hw : Memory.placeOf (s.setMem (Memory.write s.mem c v)).map b = .cell d := hb
    rw [State.load_of_cell hw, State.load_of_cell hb, State.setMem_mem, Memory.read_write]
    by_cases hd : d = c <;> simp [hd]
  | external | absent => simp [State.load, hb]

/-! ### What a list of regions answers -/

section
variable {regions : List Config.Region} {r : Config.Region} {n : Nat}

theorem placeIn_of_none (h : regionAt regions n = none) : placeIn regions n = .absent := by
  simp only [placeIn, h]

theorem placeIn_of_absent (h : regionAt regions n = some r) (hk : r.kind = .absent) :
    placeIn regions n = .absent := by
  simp only [placeIn, h, hk]

theorem placeIn_of_external (h : regionAt regions n = some r) (hk : r.kind = .external) :
    placeIn regions n = .external := by
  simp only [placeIn, h, hk]

theorem placeIn_of_memory {cell size : Nat} {stores : Config.StorePolicy} (h : regionAt regions n = some r)
    (hk : r.kind = .memory cell size stores) : placeIn regions n = .cell (regionCell r.first cell size n) := by
  simp only [placeIn, h, hk]

theorem policyIn_of_memory {cell size : Nat} {stores : Config.StorePolicy} (h : regionAt regions n = some r)
    (hk : r.kind = .memory cell size stores) : policyIn regions n = stores := by
  simp only [policyIn, h, hk]

end

/-- Where a list of regions decides the place and the policy of an address, its first region there answers (R61,
R68). -/
theorem regionPort_of_placeIn {regions : List Config.Region} {s : State} {a : Word}
    (hplace : Memory.placeOf s.map a = placeIn regions a.toNat)
    (hpolicy : Memory.policyOf s.map a = policyIn regions a.toNat) (v : Byte) : Claims.regionPort regions s a v := by
  have refuses (h : Memory.placeOf s.map a = .absent) : s.read a = .error (.unimplementedMemory a .read) ∧
      s.store a v = .error (.unimplementedMemory a .write) :=
    ⟨State.read_of_absent h, State.store_of_refused (Memory.storeEffect_of_absent h)⟩
  unfold Claims.regionPort
  split
  case h_1 hr => exact refuses (hplace.trans (placeIn_of_none hr))
  case h_2 r hr =>
    split
    case h_1 hk => exact refuses (hplace.trans (placeIn_of_absent hr hk))
    case h_2 hk =>
      have h := hplace.trans (placeIn_of_external hr hk)
      refine ⟨?_, State.store_of_external h⟩
      cases hv : Config.externalLoad s.external a with
      | some b => exact State.read_of_answer h hv
      | none => exact State.read_of_no_answer h hv
    case h_3 cell size stores hk =>
      have h := hplace.trans (placeIn_of_memory hr hk)
      have hp := hpolicy.trans (policyIn_of_memory hr hk)
      refine ⟨State.read_of_cell h, ?_⟩
      cases stores with
      | keeps => exact State.store_of_writes (Memory.storeEffect_of_keeps h hp)
      | ignores => exact State.store_of_dropped (Memory.storeEffect_of_ignores h hp)
      | refuses => exact State.store_of_refused (Memory.storeEffect_of_refuses h hp)

end Sys2Proof.Machine
end

section
/-! Which instructions write memory, and where (spec/20_memory.md R65, R66, spec/40_engine_addressing.md R139, R140). -/

namespace Sys2Proof.Machine

/-- Memory and the map are the same in two states; registers, cycles and the accesses of external regions may differ. -/
structure State.SameMemory (s t : State) : Prop where
  mem : t.mem = s.mem
  map : t.map = s.map

section
variable {s t u : State}

theorem State.SameMemory.trans (h : s.SameMemory t) (h' : t.SameMemory u) : s.SameMemory u :=
  ⟨h'.mem.trans h.mem, h'.map.trans h.map⟩

theorem State.Reads.sameMemory (h : s.Reads t) : s.SameMemory t := by
  obtain ⟨e, rfl⟩ := h
  exact ⟨rfl, rfl⟩

theorem State.SameMemory.load (h : s.SameMemory t) {b : Word} (hb : Memory.placeOf s.map b ≠ .external) :
    t.load b = s.load b :=
  State.load_congr h.map h.mem (.inl hb)

end

/-! ### Instructions that write their operand -/

section
variable {i : Instr} {am : AddressingMode} {s t : State}

/-- Which shared operation an instruction that writes its operand is (R163 to R165, R196, R197, R220). -/
theorem exec_writer (hi : mnemonicOf i ∈ Claims.writers) (ho : operandOf i = .mode am) (s : State) :
    (∃ v, (∀ w, v (s.setPC w) = v s) ∧ exec i s = storeOperand i am v s) ∨
    ∃ r p, (∀ m w, r m (s.setPC w) = r m s) ∧ (∀ m w, p m (s.setPC w) = p m s) ∧
      exec i s = modifyOperand i am r p s := by
  simp only [Claims.writers, List.mem_cons, List.not_mem_nil, or_false] at hi
  obtain hk | hk | hk | hk | hk | hk | hk | hk | hk := hi
  · exact .inl ⟨State.a, fun _ => rfl, exec_sta s hk ho⟩
  · exact .inl ⟨State.x, fun _ => rfl, exec_stx s hk ho⟩
  · exact .inl ⟨State.y, fun _ => rfl, exec_sty s hk ho⟩
  · exact .inr ⟨_, _, fun _ _ => rfl, fun _ _ => rfl, exec_inc s hk ho⟩
  · exact .inr ⟨_, _, fun _ _ => rfl, fun _ _ => rfl, exec_dec s hk ho⟩
  · exact .inr ⟨_, _, fun _ _ => rfl, fun _ _ => rfl, exec_asl s hk ho⟩
  · exact .inr ⟨_, _, fun _ _ => rfl, fun _ _ => rfl, exec_lsr s hk ho⟩
  · exact .inr ⟨_, _, fun _ _ => rfl, fun _ _ => rfl, exec_rol s hk ho⟩
  · exact .inr ⟨_, _, fun _ _ => rfl, fun _ _ => rfl, exec_ror s hk ho⟩

/-- An instruction that writes its operand finds it, may load it, saves one byte there, and writes no memory besides. -/
theorem exec_saves (hi : mnemonicOf i ∈ Claims.writers) (ho : operandOf i = .mode am) (h : exec i s = .next t) :
    ∃ l u v b w, locate am s = .ok (l, u) ∧ s.Reads v ∧ l.save b v = .ok w ∧ w.SameMemory t := by
  obtain ⟨b, hb, hx⟩ | ⟨r, p, hr, hp, hx⟩ := exec_writer hi ho s
  · obtain ⟨l, u, w, hl, hw, rfl⟩ := storeOperand_next hb (hx ▸ h)
    exact ⟨l, u, u, _, w, hl, locate_reads hl, hw, rfl, rfl⟩
  · obtain ⟨l, u, m, v, w, hl, hm, hw, rfl⟩ := modifyOperand_next hr hp (hx ▸ h)
    exact ⟨l, u, v, _, w, hl, (locate_reads hl).trans (Located.load_reads hm), hw, rfl, rfl⟩

/-- A shift of A writes no memory. -/
theorem exec_accumulator_sameMemory (hi : mnemonicOf i ∈ Claims.writers) (ho : operandOf i = .mode .accumulator)
    (h : exec i s = .next t) : s.SameMemory t := by
  obtain ⟨l, u, v, b, w, hl, hv, hw, ht⟩ := exec_saves hi ho h
  cases hl
  cases hw
  exact hv.sameMemory.trans ⟨ht.mem, ht.map⟩

/-- An instruction that writes its operand in memory leaves the byte of every other place. -/
theorem exec_writer_frame {ea : Word} {crossed : Bool} {u : State} (hi : mnemonicOf i ∈ Claims.writers)
    (ho : operandOf i = .mode am) (hl : locate am s = .ok (.memory ea crossed, u)) (h : exec i s = .next t) {b : Word}
    (hb : Memory.placeOf s.map b ≠ .external) (hne : Memory.placeOf s.map b ≠ Memory.placeOf s.map ea) :
    t.load b = s.load b := by
  obtain ⟨_, _, v, x, w, hl', hv, hw, ht⟩ := exec_saves hi ho h
  cases hl.symm.trans hl'
  have hw : v.store ea x = .ok w := hw
  have hvmap := hv.sameMemory.map
  have hwmap : w.map = v.map := by
    obtain ⟨_, _, rfl⟩ := State.store_accesses hw
    rfl
  rw [← hvmap] at hb hne
  calc t.load b = w.load b := ht.load (hwmap ▸ hb)
    _ = v.load b := State.store_frame hw hne hb
    _ = s.load b := hv.sameMemory.load (hvmap ▸ hb)

end

/-! ### Instructions that store nothing -/

theorem StoreOp.mem_writers {k : Mnemonic} {v : Regs → Byte} (h : StoreOp k v) : k ∈ Claims.writers := by
  cases h <;> decide

theorem ModifyOp.mem_writers {k : Mnemonic} {new status : Byte → Regs → Byte} (h : ModifyOp k new status) :
    k ∈ Claims.writers := by
  cases h <;> decide

/-- The pops and the indirect jump read and change registers. -/
theorem Action.sameMemory {i : Instr} {f : State → State → Except Fault State} {s t u : State} (hf : Action i f)
    (hi : mnemonicOf i ∉ Claims.pushers) (h : f s t = .ok u) : t.SameMemory u := by
  cases hf with
  | jmpInd pointer =>
    obtain ⟨⟨_, v⟩, hv, h⟩ := bind_ok.1 h
    cases h
    obtain ⟨e, rfl⟩ := State.readWord_reads hv
    exact ⟨rfl, rfl⟩
  | rts =>
    obtain ⟨⟨_, v⟩, hv, h⟩ := bind_ok.1 h
    cases h
    obtain ⟨e, rfl⟩ := State.pop16_frame hv
    exact ⟨rfl, rfl⟩
  | pla | plp =>
    obtain ⟨⟨_, v⟩, hv, h⟩ := bind_ok.1 h
    cases h
    obtain ⟨e, rfl⟩ := State.pop_frame hv
    exact ⟨rfl, rfl⟩
  | rti =>
    obtain ⟨e, p, target, rfl⟩ := State.leave_frame h
    exact ⟨rfl, rfl⟩
  | jsr | pha | php | brk => exact absurd hi (by simp [mnemonicOf, Claims.pushers])

/-- An instruction that neither pushes nor writes an operand keeps memory and the map, form by form. -/
theorem exec_nonwriter_sameMemory {i : Instr} {s t : State} (hp : mnemonicOf i ∉ Claims.pushers)
    (hw : mnemonicOf i ∉ Claims.writers) (h : exec i s = .next t) : s.SameMemory t := by
  cases form_of i with
  | reads am hρ ho hx =>
    obtain ⟨l, u, m, v, hl, hm, rfl⟩ := onOperand_next (congrFun hx s ▸ h)
    obtain ⟨e, rfl⟩ := (locate_reads hl).trans (Located.load_reads hm)
    exact ⟨rfl, rfl⟩
  | stores am hv hx ha => exact absurd hv.mem_writers hw
  | modifies am hm ho hx => exact absurd hm.mem_writers hw
  | registers _ hx | flag _ hx =>
    have h := congrFun hx s ▸ h
    rw [onRegisters_eq] at h
    cases h
    exact ⟨rfl, rfl⟩
  | branches offset hb hx =>
    have h := congrFun hx s ▸ h
    rw [opBranch_eq] at h
    split at h
    all_goals
      cases h
      exact ⟨rfl, rfl⟩
  | jmpAbs address =>
    cases h
    exact ⟨rfl, rfl⟩
  | acts hf hx =>
    obtain ⟨u, hu, rfl⟩ := onStack_next (congrFun hx s ▸ h)
    have hm := hf.sameMemory hp hu
    exact ⟨hm.mem, hm.map⟩
  | illegal opcode => cases h

end Sys2Proof.Machine
end

section
/-! The obligations about memory (spec/20_memory.md). -/

namespace Sys2Proof.Proofs

open Sys2Proof.Machine

/-- Settles O26, range by range of the documented map. -/
theorem documentedMap : Obligations.DocumentedMap := by
  intro s a v
  refine ⟨fun mirroring cartridge hs => ?_, fun all hs => regionPort_of_placeIn (hs ▸ rfl) (hs ▸ rfl) v⟩
  split
  case isTrue hram =>
    exact ⟨State.read_of_cell (hs ▸ Memory.placeOf_ram _ _ hram),
      State.store_of_writes (hs ▸ Memory.storeEffect_ram _ _ hram)⟩
  case isFalse hram =>
    split
    case isTrue hmirror =>
      obtain ⟨ha, rfl⟩ := hmirror
      have hplace : Memory.placeOf s.map a = .cell (a.toNat % 0x0800) := hs ▸ Memory.placeOf_mirror hram ha
      have hpolicy : Memory.policyOf s.map a = .keeps := hs ▸ Memory.policyOf_internal (by omega)
      exact ⟨State.read_of_cell hplace, State.store_of_writes (Memory.storeEffect_of_keeps hplace hpolicy)⟩
    case isFalse hmirror =>
      split
      case isTrue hio =>
        have hplace : Memory.placeOf s.map a = .absent := hs ▸ Memory.placeOf_unimplemented hram hmirror hio
        exact ⟨State.read_of_absent hplace, State.store_of_refused (Memory.storeEffect_of_absent hplace)⟩
      case isFalse hcart =>
        exact regionPort_of_placeIn (hs ▸ Memory.placeOf_cartridge hcart) (hs ▸ Memory.policyOf_cartridge hcart) v

/-- Settles O54: an instruction that writes no operand in memory and pushes nothing keeps memory and the map, and
outside external regions nothing else decides what a load answers. -/
theorem nonStoringFrame : Obligations.NonStoringFrame := by
  intro i s t h hpush hacc
  have hm : s.SameMemory t := by
    by_cases hw : mnemonicOf i ∈ Claims.writers
    · exact exec_accumulator_sameMemory hw (hacc hw) h
    · exact exec_nonwriter_sameMemory hpush hw h
  exact ⟨hm.mem, fun b hb => hm.load hb⟩

/-- Settles O55: the one store of such an instruction is to the address its mode gives. -/
theorem operandStoreFrame : Obligations.OperandStoreFrame :=
  fun _ _ _ _ _ _ _ h hi ho hl _ hb hne => exec_writer_frame hi ho hl h hb hne

/-- Settles O60, by what a store that lands writes, what a read adds to the external accesses, and the zero-page address
as a word. -/
theorem loadAfterStore : Obligations.LoadAfterStore := by
  refine ⟨fun s t a v c h hc => ?_, fun s t a v => ?_, fun s b v => ?_⟩
  · cases h.symm.trans (State.store_of_writes hc)
    have hload := State.load_write s c v
    exact ⟨rfl, (hload a).trans (if_pos (Memory.storeEffect_writes hc)), hload⟩
  · rw [State.read_ok, State.loaded_eq_ite]
    rfl
  · rw [BitVec.ofNat_toNat]
    exact ⟨rfl, rfl⟩

end Sys2Proof.Proofs
end

section
/-! What the decoder makes of an opcode byte and its operand bytes, as a row of the instruction table, and the bytes of an
instruction as what it is decoded from (spec/30_encoding.md R100 to R106). -/

namespace Sys2Proof.Machine

/-! ### The rows of the table -/

theorem length_instructionTable : instructionTable.length = 256 := by decide +kernel

/-- What holds of each row of the table with its number holds of each opcode byte with its entry. -/
theorem forall_tableEntry {p : TableEntry → Byte → Prop}
    (h : ∀ r ∈ instructionTable.zipIdx, p r.1 (BitVec.ofNat 8 r.2)) (op : Byte) : p (tableEntry op) op := by
  have hlt : op.toNat < instructionTable.length := length_instructionTable ▸ op.isLt
  have hr : (tableEntry op, op.toNat) ∈ instructionTable.zipIdx := by
    rw [List.mem_zipIdx_iff_getElem?, tableEntry, List.getD_eq_getElem _ _ hlt]
    exact List.getElem?_eq_getElem hlt
  simpa using h _ hr

/-- R106's list is the rows of the table without an instruction. -/
theorem mem_illegalOpcodes_iff {op : Byte} : op ∈ illegalOpcodes ↔ (tableEntry op).mnemonic = .illegal :=
  forall_tableEntry (p := fun e op => op ∈ illegalOpcodes ↔ e.mnemonic = .illegal) (by decide +kernel) op

/-- Every assigned row has the base cycles and page penalty of R110. -/
theorem tableEntry_cost {op : Byte} (h : op ∉ illegalOpcodes) :
    ((tableEntry op).base, (tableEntry op).penalty) = Claims.r110 (tableEntry op).mnemonic (tableEntry op).format :=
  forall_tableEntry (p := fun e _ => e.mnemonic ≠ .illegal → (e.base, e.penalty) = Claims.r110 e.mnemonic e.format)
    (by decide +kernel) op (mt mem_illegalOpcodes_iff.2 h)

theorem tableEntry_length_cases (op : Byte) :
    (tableEntry op).length = 1 ∨ (tableEntry op).length = 2 ∨ (tableEntry op).length = 3 := by
  unfold TableEntry.length
  cases (tableEntry op).format <;> decide

/-- Every opcode byte is the opcode of an instruction of its row of the table. -/
theorem exists_instr_of_row (op : Byte) : ∃ i, opcodeOf i = op ∧ mnemonicOf i = (tableEntry op).mnemonic ∧
    formatOf (operandOf i) = (tableEntry op).format :=
  ⟨decodeOpcode op 0#8 0#8, forall_tableEntry
    (p := fun e op => opcodeOf (decodeOpcode op 0#8 0#8) = op ∧ mnemonicOf (decodeOpcode op 0#8 0#8) = e.mnemonic ∧
      formatOf (operandOf (decodeOpcode op 0#8 0#8)) = e.format) (by decide +kernel) op⟩

/-! ### Well-formed instructions -/

theorem wellFormed_illegal_iff {op : Byte} : (Instr.illegal op).wellFormed = true ↔ op ∈ illegalOpcodes := by
  rw [mem_illegalOpcodes_iff]
  exact beq_iff_eq

/-- An instruction that has the mnemonic of its opcode's row is well-formed. -/
theorem wellFormed_of_mnemonic {i : Instr} (h : mnemonicOf i = (entryOf i).mnemonic) : i.wellFormed = true := by
  cases i with
  | illegal op => exact wellFormed_illegal_iff.2 (mem_illegalOpcodes_iff.2 h.symm)
  | _ => rfl

/-! ### The instruction of an opcode and operand bytes -/

/-- Both sides are computed for each byte of R106's list: the operand bytes are ignored. -/
theorem decodeOpcode_of_mem_illegalOpcodes {b1 b2 : Byte} :
    ∀ {op : Byte}, op ∈ illegalOpcodes → decodeOpcode op b1 b2 = .illegal op :=
  @(List.map_inj_left.1 rfl)

/-- `j` is the instruction `i` with operand `o` in place of its own. -/
structure WithOperand (i : Instr) (o : Operand) (j : Instr) : Prop where
  opcode : opcodeOf j = opcodeOf i
  mnemonic : mnemonicOf j = mnemonicOf i
  operand : operandOf j = o
  eq_self : o = operandOf i → j = i

/-- Decoding the opcode of an instruction with any operand bytes replaces the operand and nothing else. -/
theorem decodeOpcode_withOperand {i : Instr} (hi : i.wellFormed = true) (b1 b2 : Byte) :
    WithOperand i (selectOperand (formatOf (operandOf i)) b1 b2) (decodeOpcode (opcodeOf i) b1 b2) := by
  cases i with
  | illegal op =>
    have hop : decodeOpcode op b1 b2 = .illegal op := decodeOpcode_of_mem_illegalOpcodes (wellFormed_illegal_iff.1 hi)
    exact ⟨congrArg opcodeOf hop, congrArg mnemonicOf hop, congrArg operandOf hop, fun _ => hop⟩
  | _ =>
    generalize hj : decodeOpcode _ b1 b2 = j
    -- the opcode as a literal first: evaluating the decoder on `opcodeOf i` itself is slow
    simp only [opcodeOf] at hj
    conv at hj => lhs; whnf
    subst hj
    exact ⟨rfl, rfl, rfl, fun ho => by cases ho; rfl⟩

section
variable (op b1 b2 : Byte)

/-- The decoded instruction is the one of the table's row, with the operand that the row's format builds. -/
theorem decodeOpcode_row : opcodeOf (decodeOpcode op b1 b2) = op ∧
    mnemonicOf (decodeOpcode op b1 b2) = (tableEntry op).mnemonic ∧
    operandOf (decodeOpcode op b1 b2) = selectOperand (tableEntry op).format b1 b2 := by
  obtain ⟨i, rfl, hm, hf⟩ := exists_instr_of_row op
  have h := decodeOpcode_withOperand (wellFormed_of_mnemonic hm) b1 b2
  exact ⟨h.opcode, h.mnemonic.trans hm, hf ▸ h.operand⟩

@[simp] theorem opcodeOf_decodeOpcode : opcodeOf (decodeOpcode op b1 b2) = op :=
  (decodeOpcode_row op b1 b2).1

@[simp] theorem mnemonicOf_decodeOpcode : mnemonicOf (decodeOpcode op b1 b2) = (tableEntry op).mnemonic :=
  (decodeOpcode_row op b1 b2).2.1

@[simp] theorem operandOf_decodeOpcode :
    operandOf (decodeOpcode op b1 b2) = selectOperand (tableEntry op).format b1 b2 :=
  (decodeOpcode_row op b1 b2).2.2

@[simp] theorem entryOf_decodeOpcode : entryOf (decodeOpcode op b1 b2) = tableEntry op :=
  congrArg tableEntry (opcodeOf_decodeOpcode op b1 b2)

@[simp] theorem wellFormed_decodeOpcode : (decodeOpcode op b1 b2).wellFormed = true :=
  wellFormed_of_mnemonic (by simp)

end

section
variable {op b1 b2 c1 c2 : Byte}

theorem decodeOpcode_eq_illegal_iff : decodeOpcode op b1 b2 = .illegal op ↔ op ∈ illegalOpcodes := by
  refine ⟨fun h => mem_illegalOpcodes_iff.2 ?_, decodeOpcode_of_mem_illegalOpcodes⟩
  rw [← mnemonicOf_decodeOpcode op b1 b2, h, mnemonicOf]

/-! ### Operand bytes -/

@[simp] theorem formatOf_selectOperand (f : Format) : formatOf (selectOperand f b1 b2) = f := by
  cases f <;> rfl

/-- The bytes of the operand that a format builds are the operand bytes that the format has (R101, R102). -/
theorem operandBytes_selectOperand (f : Format) :
    operandBytes (selectOperand f b1 b2) = [b1, b2].take (formatLength f - 1) := by
  cases f with
  | abs | abx | aby | ind => simp [selectOperand, operandBytes, formatLength]
  | _ => rfl

/-- A format ignores the operand bytes that it does not have. -/
theorem selectOperand_congr {f : Format}
    (h : [b1, b2].take (formatLength f - 1) = [c1, c2].take (formatLength f - 1)) :
    selectOperand f b1 b2 = selectOperand f c1 c2 := by
  cases f <;> cases h <;> rfl

/-- Every operand is built from some operand bytes. -/
theorem exists_selectOperand (o : Operand) : ∃ b1 b2, selectOperand (formatOf o) b1 b2 = o := by
  have hword (w : Word) := Bits.join_bytes w
  cases o with
  | implied | unassigned => exact ⟨0#8, 0#8, rfl⟩
  | relative b => exact ⟨b, 0#8, rfl⟩
  | indirect w => exact ⟨Bits.loByte w, Bits.hiByte w, by rw [formatOf, selectOperand, hword]⟩
  | mode am =>
    cases am with
    | accumulator => exact ⟨0#8, 0#8, rfl⟩
    | immediate b | zeroPage b | zeroPageX b | zeroPageY b | indexedIndirect b | indirectIndexed b =>
      exact ⟨b, 0#8, rfl⟩
    | absolute w | absoluteX w | absoluteY w =>
      exact ⟨Bits.loByte w, Bits.hiByte w, by rw [formatOf, selectOperand, hword]⟩

/-- A well-formed instruction is decoded from its opcode and the bytes its operand is built from. -/
theorem exists_decodeOpcode_eq {i : Instr} (hi : i.wellFormed = true) :
    ∃ b1 b2, decodeOpcode (opcodeOf i) b1 b2 = i := by
  obtain ⟨b1, b2, ho⟩ := exists_selectOperand (operandOf i)
  exact ⟨b1, b2, (decodeOpcode_withOperand hi b1 b2).eq_self ho⟩

/-- The decoder ignores the operand bytes that the opcode's format does not have. -/
theorem decodeOpcode_congr
    (h : [b1, b2].take ((tableEntry op).length - 1) = [c1, c2].take ((tableEntry op).length - 1)) :
    decodeOpcode op b1 b2 = decodeOpcode op c1 c2 := by
  have hw := decodeOpcode_withOperand (wellFormed_decodeOpcode op c1 c2) b1 b2
  simp only [opcodeOf_decodeOpcode, operandOf_decodeOpcode, formatOf_selectOperand] at hw
  exact hw.eq_self (by rw [operandOf_decodeOpcode, selectOperand_congr h])

/-! ### Lists of bytes -/

/-- The bytes of a decoded instruction are its opcode and the operand bytes that its format has. -/
theorem encode_decodeOpcode :
    encode (decodeOpcode op b1 b2) = op :: [b1, b2].take ((tableEntry op).length - 1) := by
  rw [encode, opcodeOf_decodeOpcode, operandOf_decodeOpcode, operandBytes_selectOperand, TableEntry.length]

theorem length_encode_decodeOpcode : (encode (decodeOpcode op b1 b2)).length = (tableEntry op).length := by
  rw [encode_decodeOpcode]
  obtain hl | hl | hl := tableEntry_length_cases op <;> rw [hl] <;> rfl

/-- From the bytes of a decoded instruction the decoder takes these bytes and no more, for each of the three lengths. -/
theorem decode_encode_decodeOpcode (rest : List Byte) :
    decode (encode (decodeOpcode op b1 b2) ++ rest) = .ok (decodeOpcode op b1 b2, rest) := by
  have hc {c1 c2} := @decodeOpcode_congr op c1 c2 b1 b2
  rw [encode_decodeOpcode]
  obtain hl | hl | hl := tableEntry_length_cases op
  · simp [decode, hl, hc (c1 := 0#8) (c2 := 0#8)]
  · simp [decode, hl, hc (c1 := b1) (c2 := 0#8)]
  · simp [decode, hl]

end

/-- What decoding answers comes from an opcode byte and operand bytes, and the list is its bytes and the rest. -/
theorem decode_ok {bytes rest : List Byte} {i : Instr} (h : decode bytes = .ok (i, rest)) :
    ∃ op b1 b2, i = decodeOpcode op b1 b2 ∧ bytes = encode i ++ rest := by
  unfold decode at h
  split at h
  · cases h
  · split at h <;> cases h
    all_goals
      refine ⟨_, _, _, rfl, ?_⟩
      simp [encode_decodeOpcode, *]

end Sys2Proof.Machine
end

section
/-! An instruction step on an unassigned opcode byte (spec/60_exceptions.md R301, R313). -/

namespace Sys2Proof.Machine

section
variable {s t : State} {op : Byte}

theorem step_of_ready (h : Claims.ready s) : step s = instructionStep s := by
  obtain ⟨hf, hs, hp⟩ := h
  simp [step, takeStep, hf, hs, hp]

/-- An illegal byte is an instruction of one byte: fetching it reads no operand byte. -/
theorem fetch_of_mem_illegalOpcodes (hr : s.read s.pc = .ok (op, t)) (hop : op ∈ illegalOpcodes) :
    fetch s = .ok (.illegal op, t) := by
  have hl : (tableEntry op).length = 1 :=
    congrArg formatLength (Laws.TableRow.stub_of_illegal op (mem_illegalOpcodes_iff.1 hop))
  simp [fetch, hr, hl, decodeOpcode_of_mem_illegalOpcodes hop, bind, Except.bind, pure, Except.pure]

theorem step_of_mem_illegalOpcodes (hs : Claims.ready s) (hl : s.load s.pc = .ok op) (hop : op ∈ illegalOpcodes) :
    step s = .fault (.illegalOpcode op s.pc) := by
  have hr : s.read s.pc = .ok (op, s.loaded s.pc) := State.read_ok.2 ⟨hl, rfl⟩
  obtain ⟨e, he⟩ := State.read_reads hr
  rw [step_of_ready hs, instructionStep, fetch_of_mem_illegalOpcodes hr hop, he]
  rfl

end

end Sys2Proof.Machine
end

section
/-! The obligations about the encoding (spec/30_encoding.md). -/

namespace Sys2Proof.Proofs

open Sys2Proof.Machine

/-- Settles O7: a well-formed instruction is what its opcode and operand bytes decode to. -/
theorem decodeOfEncode : Obligations.DecodeOfEncode := by
  intro i rest hi
  obtain ⟨b1, b2, h⟩ := exists_decodeOpcode_eq hi
  rw [← h]
  exact decode_encode_decodeOpcode rest

/-- Settles O8: the list decoded is the bytes of the instruction that the table's row gives, and the rest. -/
theorem encodeOfDecode : Obligations.EncodeOfDecode := by
  intro bytes rest i h
  obtain ⟨op, b1, b2, rfl, hb⟩ := decode_ok h
  refine ⟨wellFormed_decodeOpcode .., hb, ?_⟩
  rw [length_encode_decodeOpcode, lengthOf, entryOf_decodeOpcode]

/-- Settles O9, by the row of the opcode and, for the cycles, by the rows of R110. -/
theorem decodeFollowsTable : Obligations.DecodeFollowsTable := by
  intro op b1 b2
  refine ⟨mnemonicOf_decodeOpcode .., operandOf_decodeOpcode .., opcodeOf_decodeOpcode ..,
    decodeOpcode_eq_illegal_iff, fun timing hop ht => ?_, fun timing c hc => ?_, fun _ _ _ _ => rfl,
    rfl, rfl, rfl, rfl⟩
  · simp only [costOf, opcodeOf_decodeOpcode, entryOf_decodeOpcode, ht]
    exact tableEntry_cost hop
  · simp only [costOf, opcodeOf_decodeOpcode, hc]

/-- Settles O10, byte list by byte list. -/
theorem decodeSampleWords : Obligations.DecodeSampleWords :=
  ⟨rfl, rfl, rfl, rfl, rfl, rfl, rfl, rfl, rfl⟩

/-- Settles O22: exec of the illegal instruction is the fault, and the fetch of an illegal byte answers that
instruction. -/
theorem illegalOpcodeFaults : Obligations.IllegalOpcodeFaults :=
  ⟨fun _ _ => rfl, fun _ _ => step_of_mem_illegalOpcodes⟩

end Sys2Proof.Proofs
end

section
/-! Which kind of step is taken, as one equation per kind, and runs of stall steps and of faulted machines
(spec/40_engine_addressing.md R130 to R133, spec/60_exceptions.md R305, R308). -/

namespace Sys2Proof.Machine

section
variable {s : State} {f : Fault} {k : InterruptKind}

/-- A faulted machine answers its fault again. -/
theorem step_of_faulted (h : s.fault = some f) : step s = .fault f := by
  simp only [step, takeStep, h]

/-- A stall step comes before the poll (R131). -/
theorem step_of_stall (hf : s.fault = none) (hs : s.stall ≠ 0#8) : step s = .next s.stallStep := by
  simp [step, takeStep, hf, hs]

theorem step_of_poll (hf : s.fault = none) (hs : s.stall = 0#8) (hp : s.poll = some k) :
    step s = interruptStep k s := by
  simp [step, takeStep, hf, hs, hp]

theorem run_succ_of_step {t : State} {n : Nat} (h : step s = .next t) :
    Host.Core.run core (n + 1) s = Host.Core.run core n t := by
  simp only [Host.Core.run, show core.step s = .next t from h]

theorem run_succ_of_fault {n : Nat} (h : step s = .fault f) : Host.Core.run core (n + 1) s = .fault f := by
  simp only [Host.Core.run, show core.step s = .fault f from h]

/-- As many steps as STALL says are stall steps. -/
theorem run_stall (n : Nat) : ∀ (s : State) (v : Byte), s.fault = none → v.toNat = n →
    Host.Core.run core n (s.setStall v) = .next ((s.setStall 0#8).addCycles n) := by
  induction n with
  | zero =>
    intro s v _ hv
    rw [show v = 0#8 from BitVec.eq_of_toNat_eq hv]
    rfl
  | succ n ih =>
    intro s v hf hv
    have hne : v ≠ 0#8 := by rintro rfl; simp at hv
    have hsub : (v - 1#8).toNat = n := by have := v.isLt; simp [BitVec.toNat_sub]; omega
    rw [run_succ_of_step (step_of_stall (s := s.setStall v) hf hne)]
    refine (ih (s.addCycles 1) (v - 1#8) hf hsub).trans ?_
    rw [Nat.add_comm n 1]
    simp [State.addCycles, State.setStall, Nat.add_assoc]

/-- A run of a faulted machine that answers a state answers a faulted one. -/
theorem run_of_faulted {t : State} (h : s.fault = some f) {n : Nat} (hr : Host.Core.run core n s = .next t) :
    t.fault = some f := by
  cases n with
  | zero => cases hr; exact h
  | succ n => rw [run_succ_of_fault (step_of_faulted h)] at hr; cases hr

end

end Sys2Proof.Machine
end

section
/-! What an instruction step fetches, from the bytes that the port answers at PC and after it, and the memory that
`withFetchWord` fills (spec/40_engine_addressing.md R133, R139). -/

namespace Sys2Proof.Machine

open Claims (bytesRead)

section
variable {s t u v : State} {op b1 b2 : Byte} {f : Fault}

theorem Word.add_one_one (w : Word) : w + 1#16 + 1#16 = w + 2#16 := by
  rw [BitVec.add_assoc]; rfl

/-! ### The fetch, by the length of the instruction -/

theorem fetch_of_length_one (h : s.read s.pc = .ok (op, t)) (hl : (tableEntry op).length = 1) :
    fetch s = .ok (decodeOpcode op 0#8 0#8, t) := by
  simp [fetch, h, hl, bind, Except.bind, pure, Except.pure]

theorem fetch_of_length_two (h : s.read s.pc = .ok (op, t)) (hl : (tableEntry op).length = 2)
    (h1 : t.read (s.pc + 1#16) = .ok (b1, u)) : fetch s = .ok (decodeOpcode op b1 0#8, u) := by
  simp [fetch, h, hl, h1, bind, Except.bind, pure, Except.pure]

theorem fetch_of_length_three (h : s.read s.pc = .ok (op, t)) (hl : (tableEntry op).length = 3)
    (h1 : t.read (s.pc + 1#16) = .ok (b1, u)) (h2 : u.read (s.pc + 2#16) = .ok (b2, v)) :
    fetch s = .ok (decodeOpcode op b1 b2, v) := by
  simp [fetch, h, hl, h1, h2, bind, Except.bind, pure, Except.pure]

theorem fetch_of_opcode_error (h : s.read s.pc = .error f) : fetch s = .error f := by
  simp [fetch, h, bind, Except.bind]

theorem fetch_of_operand_error (h : s.read s.pc = .ok (op, t)) (hl : 1 < (tableEntry op).length)
    (h1 : t.read (s.pc + 1#16) = .error f) : fetch s = .error f := by
  obtain hl' | hl' | hl' := tableEntry_length_cases op
  · omega
  all_goals simp [fetch, h, hl', h1, bind, Except.bind]

theorem fetch_of_second_operand_error (h : s.read s.pc = .ok (op, t)) (hl : (tableEntry op).length = 3)
    (h1 : t.read (s.pc + 1#16) = .ok (b1, u)) (h2 : u.read (s.pc + 2#16) = .error f) : fetch s = .error f := by
  simp [fetch, h, hl, h1, h2, bind, Except.bind]

theorem step_of_fetch_error (hs : Claims.ready s) (h : fetch s = .error f) : step s = .fault f := by
  rw [step_of_ready hs, instructionStep, h]

/-! ### Bytes read in a row -/

theorem bytesRead_reads {bytes : List Byte} : ∀ {s : State} {a : Word}, bytesRead bytes a s t → s.Reads t := by
  induction bytes with
  | nil => rintro s a rfl; exact State.Reads.refl t
  | cons b rest ih =>
    rintro s a ⟨u, hu, h⟩
    exact (State.read_reads hu).trans (ih h)

/-- Reads outside external regions leave the state as it is. -/
theorem bytesRead_eq {bytes : List Byte} : ∀ {s : State} {a : Word}, bytesRead bytes a s t →
    (∀ k, k < bytes.length → Memory.placeOf s.map (a + BitVec.ofNat 16 k) ≠ .external) → t = s := by
  induction bytes with
  | nil => rintro s a rfl _; rfl
  | cons b rest ih =>
    rintro s a ⟨u, hu, h⟩ hp
    have h0 : Memory.placeOf s.map a ≠ .external := by simpa using hp 0 (by simp)
    obtain rfl : u = s := (State.read_ok.1 hu).2.trans (State.loaded_of_not_external h0)
    refine ih h fun k hk => ?_
    have := hp (k + 1) (by simpa using hk)
    rwa [Nat.add_comm, BitVec.ofNat_add, ← BitVec.add_assoc] at this

/-- Bytes that the port answers at their addresses without a change of state are read in a row. -/
theorem bytesRead_of_getElem? {bytes : List Byte} : ∀ {a : Word},
    (∀ k b, bytes[k]? = some b → s.read (a + BitVec.ofNat 16 k) = .ok (b, s)) → bytesRead bytes a s s := by
  induction bytes with
  | nil => exact fun _ => rfl
  | cons b rest ih =>
    intro a h
    refine ⟨s, by simpa using h 0 b rfl, ih fun k c hk => ?_⟩
    have := h (k + 1) c hk
    rwa [Nat.add_comm, BitVec.ofNat_add, ← BitVec.add_assoc] at this

/-- Where the bytes of an instruction are read at PC, that instruction is fetched, for each of the three lengths. -/
theorem fetch_of_bytesRead (h : bytesRead (encode (decodeOpcode op b1 b2)) s.pc s t) :
    fetch s = .ok (decodeOpcode op b1 b2, t) := by
  have hc {c1 c2} := @decodeOpcode_congr op c1 c2 b1 b2
  rw [encode_decodeOpcode] at h
  obtain ⟨u, hu, h⟩ := h
  obtain hl | hl | hl := tableEntry_length_cases op
  · rw [hl] at h hc
    cases h
    rw [fetch_of_length_one hu hl, hc (c1 := 0#8) (c2 := 0#8) rfl]
  · rw [hl] at h hc
    obtain ⟨v, hv, h⟩ := h
    cases h
    rw [fetch_of_length_two hu hl hv, hc (c1 := b1) (c2 := 0#8) rfl]
  · rw [hl] at h
    obtain ⟨v, hv, w, hw, h⟩ := h
    cases h
    rw [Word.add_one_one] at hw
    exact fetch_of_length_three hu hl hv hw

/-- An instruction step runs the instruction that the bytes at PC decode to (R133). -/
theorem step_of_bytesRead {bytes rest : List Byte} {i : Instr} (hs : Claims.ready s) (hd : decode bytes = .ok (i, rest))
    (h : bytesRead (encode i) s.pc s t) : step s = exec i t := by
  obtain ⟨op, b1, b2, rfl, -⟩ := decode_ok hd
  rw [step_of_ready hs, instructionStep, fetch_of_bytesRead h]

/-! ### Placing an instruction -/

theorem State.place_setMem {m : Memory} {a : Word} {c : Nat} (h : Memory.placeOf s.map a = .cell c) (b : Byte) :
    (s.setMem m).place a b = s.setMem (Memory.write m c b) := by
  simp only [State.place, State.setMem_map, h]
  rfl

/-- A state made ready to fetch differs in the fault status, STALL and INTERRUPT alone. -/
theorem State.readyToFetch_eq (s : State) :
    ∃ k, s.readyToFetch = ((s.setFault none).setStall 0#8).setInterrupt k := by
  unfold State.readyToFetch
  split
  · exact ⟨s.interrupt, rfl⟩
  · exact ⟨.none, rfl⟩

theorem State.readyToFetch_poll (s : State) : s.readyToFetch.poll = none := by
  unfold State.readyToFetch
  split
  · exact ‹s.poll = none›
  · rfl

theorem State.withInstruction_ready (s : State) (bytes : List Byte) : Claims.ready (s.withInstruction bytes) := by
  obtain ⟨k, hk⟩ := (s.placeAll s.pc bytes).readyToFetch_eq
  exact ⟨congrArg State.fault hk, congrArg State.stall hk, State.readyToFetch_poll _⟩

/-- Bytes placed in three cells of their own are what the port answers at PC and after it. -/
theorem State.withInstruction_read {c0 c1 c2 : Nat} (h0 : Memory.placeOf s.map s.pc = .cell c0)
    (h1 : Memory.placeOf s.map (s.pc + 1#16) = .cell c1) (h2 : Memory.placeOf s.map (s.pc + 2#16) = .cell c2)
    (h01 : c0 ≠ c1) (h02 : c0 ≠ c2) (h12 : c1 ≠ c2) (ht : t = s.withInstruction [op, b1, b2]) {k : Nat} {b : Byte}
    (hk : [op, b1, b2][k]? = some b) : t.read (t.pc + BitVec.ofNat 16 k) = .ok (b, t) := by
  have hplace : s.placeAll s.pc [op, b1, b2] =
      s.setMem (Memory.write (Memory.write (Memory.write s.mem c0 op) c1 b1) c2 b2) := by
    simp only [State.placeAll, Word.add_one_one]
    rw [show s.place s.pc op = _ from State.place_setMem (m := s.mem) h0 op, State.place_setMem h1,
      State.place_setMem h2]
  obtain ⟨i, hi⟩ := (s.placeAll s.pc [op, b1, b2]).readyToFetch_eq
  rw [← State.withInstruction, ← ht, hplace] at hi
  have hpc : t.pc = s.pc := by rw [hi]; rfl
  have hmap : t.map = s.map := by rw [hi]; rfl
  have hmem := congrArg State.mem hi
  have hread {a : Word} {c : Nat} (h : Memory.placeOf s.map a = .cell c) : t.read a = .ok (Memory.read t.mem c, t) :=
    State.read_of_cell (hmap ▸ h)
  rw [hpc]
  match k with
  | 0 =>
    obtain rfl : op = b := by simpa using hk
    rw [BitVec.add_zero, hread h0, hmem]
    simp [Memory.read_write, h01, h02]
  | 1 =>
    obtain rfl : b1 = b := by simpa using hk
    rw [hread h1, hmem]
    simp [Memory.read_write, h12]
  | 2 =>
    obtain rfl : b2 = b := by simpa using hk
    rw [hread h2, hmem]
    simp
  | k + 3 => simp at hk

end

end Sys2Proof.Machine
end

section
/-! The words that the statements about addresses write as numbers (spec/00_scope.md R10, R11), and the places of the
indexed modes (spec/40_engine_addressing.md R147 to R150, R154). -/

namespace Sys2Proof.Machine

namespace Bits

theorem zext16_eq_ofNat (b : Byte) : zext16 b = BitVec.ofNat 16 b.toNat :=
  (BitVec.ofNat_toNat 16 b).symm

theorem zext16_add (b c : Byte) : zext16 (b + c) = BitVec.ofNat 16 ((b.toNat + c.toNat) % 256) := by
  rw [zext16_eq_ofNat, BitVec.toNat_add]

theorem zext16_add_one (b : Byte) : zext16 (b + 1#8) = BitVec.ofNat 16 ((b.toNat + 1) % 256) := zext16_add b 1#8

theorem add_zext16 (w : Word) (b : Byte) : w + zext16 b = BitVec.ofNat 16 (w.toNat + b.toNat) := by
  rw [BitVec.ofNat_add, ← zext16_eq_ofNat, BitVec.ofNat_toNat, BitVec.setWidth_eq]

theorem join_eq_ofNat (hi lo : Byte) : join hi lo = BitVec.ofNat 16 (hi.toNat * 256 + lo.toNat) := by
  rw [← join_toNat, BitVec.ofNat_toNat, BitVec.setWidth_eq]

theorem join_add_zext16 (hi lo b : Byte) :
    join hi lo + zext16 b = BitVec.ofNat 16 (hi.toNat * 256 + lo.toNat + b.toNat) := by
  rw [add_zext16, join_toNat]

end Bits

/-- The stack address as a number (R24). -/
theorem stackAddress_eq_ofNat (sp : Byte) : stackAddress sp = BitVec.ofNat 16 (0x0100 + sp.toNat) := by
  rw [stackAddress, Bits.zext16_eq_ofNat, BitVec.ofNat_add]

theorem stackAddress_add_one (sp : Byte) :
    stackAddress (sp + 1#8) = BitVec.ofNat 16 (0x0100 + (sp.toNat + 1) % 256) := by
  rw [stackAddress_eq_ofNat, BitVec.toNat_add]
  rfl

/-! ### The stack in RAM -/

section
variable {s t : State} {v : Byte}

/-- On a stack page of RAM a push writes its cell (R136). -/
theorem State.push_of_stackRam (h : Claims.stackRam s) (v : Byte) :
    s.push v = .ok ((s.setMem (Memory.write s.mem (0x0100 + s.sp.toNat) v)).setSP (s.sp - 1#8)) := by
  have hs := State.push_of_store (State.store_of_writes (v := v) (h s.sp))
  rwa [stackAddress_toNat] at hs

/-- On a stack page of RAM a pop after a push reads the pushed byte (R137). -/
theorem State.pop_of_push (h : Claims.stackRam s) (hp : s.push v = .ok t) : t.pop = .ok (v, t.setSP s.sp) := by
  rw [State.push_of_stackRam h] at hp
  cases hp
  have hcell : Memory.placeOf s.map (stackAddress (s.sp - 1#8 + 1#8)) = .cell (0x0100 + s.sp.toNat) := by
    rw [BitVec.sub_add_cancel, ← stackAddress_toNat]
    exact Memory.storeEffect_writes (h s.sp)
  refine (State.pop_of_read (State.read_of_cell (c := 0x0100 + s.sp.toNat) hcell)).trans ?_
  simp

end

/-! ### The two pointer reads of an indirect mode, in order -/

section
variable {s t u : State} {b lo hi : Byte} {f : Fault}

theorem locate_indexedIndirect_of_error (h : s.readPointer (b + s.x) = .error f) :
    locate (.indexedIndirect b) s = .error f := by
  simp only [locate, h, bind, Except.bind]

theorem locate_indexedIndirect_of_read {w : Word} (h : s.readPointer (b + s.x) = .ok (w, t)) :
    locate (.indexedIndirect b) s = .ok (.memory w false, t) := by
  simp only [locate, h, bind, Except.bind, pure, Except.pure]

theorem locate_indirectIndexed_of_error (h : s.readPointer b = .error f) :
    locate (.indirectIndexed b) s = .error f := by
  simp only [locate, h, bind, Except.bind]

theorem locate_indirectIndexed_of_read {w : Word} (h : s.readPointer b = .ok (w, t)) :
    locate (.indirectIndexed b) s = .ok (indexed w s.y, t) := by
  simp only [locate, h, bind, Except.bind, pure, Except.pure]

end

/-! ### Crossed pages -/

/-- An indexed place is crossed exactly when the page of its address is not that of its base, which index 0 leaves
(R154). -/
theorem indexed_crossed {base ea : Word} {index : Byte} {k : Bool} (h : indexed base index = .memory ea k) :
    (k = true ↔ base.toNat / 256 ≠ ea.toNat / 256) ∧ (index = 0#8 → k = false) := by
  cases h
  refine ⟨?_, ?_⟩
  · rw [bne_iff_ne, Ne, ← BitVec.toNat_inj, Bits.hiByte_toNat, Bits.hiByte_toNat]
  · rintro rfl
    simp [Bits.zext16]

/-- The modes that do not index a 16-bit base are never crossed. -/
theorem locate_not_crossed {am : AddressingMode} {s t : State} {l : Located}
    (hd : ∀ v, am ≠ .absoluteX v ∧ am ≠ .absoluteY v) (hi : ∀ v, am ≠ .indirectIndexed v)
    (h : locate am s = .ok (l, t)) : l.crossed = false := by
  cases am with
  | absoluteX w => exact absurd rfl (hd w).1
  | absoluteY w => exact absurd rfl (hd w).2
  | indirectIndexed b => exact absurd rfl (hi b)
  | indexedIndirect b =>
    obtain ⟨⟨w, u⟩, -, h⟩ := bind_ok.1 h
    cases h
    rfl
  | accumulator | immediate | zeroPage | zeroPageX | zeroPageY | absolute => cases h; rfl

end Sys2Proof.Machine
end

section
/-! Instructions by the accesses they make to their operand, and the result of a shift as a number
(spec/40_engine_addressing.md R135, R139, R140, spec/43_shift_rotate.md R221 to R224). -/

namespace Sys2Proof.Machine

section
variable {i : Instr} {am : AddressingMode} {s : State} {f : Fault}

/-- Which shared operation an instruction that loads its operand and stores nothing is. -/
theorem exec_reader (hi : mnemonicOf i ∈ Claims.readers) (ho : operandOf i = .mode am) (s : State) :
    ∃ g, exec i s = onOperand i am g s := by
  simp only [Claims.readers, List.mem_cons, List.not_mem_nil, or_false] at hi
  obtain hk | hk | hk | hk | hk | hk | hk | hk | hk | hk | hk | hk := hi
  · exact ⟨_, exec_lda s hk ho⟩
  · exact ⟨_, exec_ldx s hk ho⟩
  · exact ⟨_, exec_ldy s hk ho⟩
  · exact ⟨_, exec_adc s hk ho⟩
  · exact ⟨_, exec_sbc s hk ho⟩
  · exact ⟨_, exec_and s hk ho⟩
  · exact ⟨_, exec_ora s hk ho⟩
  · exact ⟨_, exec_eor s hk ho⟩
  · exact ⟨_, exec_bit s hk ho⟩
  · exact ⟨_, exec_cmp s hk ho⟩
  · exact ⟨_, exec_cpx s hk ho⟩
  · exact ⟨_, exec_cpy s hk ho⟩

/-- The shift of a mnemonic. -/
def shiftOf (k : Mnemonic) : Flags.Shift :=
  match k with
  | .asl => .asl
  | .lsr => .lsr
  | .rol => .rol
  | _ => .ror

theorem exec_shift (hi : mnemonicOf i ∈ [.asl, .lsr, .rol, .ror]) (ho : operandOf i = .mode am) (s : State) :
    exec i s = opShift i (shiftOf (mnemonicOf i)) am s := by
  simp only [List.mem_cons, List.not_mem_nil, or_false] at hi
  obtain hk | hk | hk | hk := hi <;> rw [hk]
  · exact exec_asl s hk ho
  · exact exec_lsr s hk ho
  · exact exec_rol s hk ho
  · exact exec_ror s hk ho

/-- The shifted byte as a number (R221 to R224). -/
theorem shiftResult_toNat {k : Mnemonic} (hk : k ∈ [.asl, .lsr, .rol, .ror]) (v : Byte) (carry : Bool) :
    (Flags.shiftResult (shiftOf k) v carry).toNat = (Claims.shiftOutcome k v.toNat carry).1 := by
  have hv := v.isLt
  have hl : (v <<< 1).toNat = 2 * (v.toNat % 128) := by simp [Nat.shiftLeft_eq]; omega
  have hr : (v >>> 1).toNat = v.toNat / 2 := by simp [Nat.shiftRight_eq_div_pow]
  simp only [List.mem_cons, List.not_mem_nil, or_false] at hk
  obtain rfl | rfl | rfl | rfl := hk
  · simp only [Flags.shiftResult, shiftOf, Claims.shiftOutcome, hl]
    omega
  · exact hr
  · have hb : (BitVec.ofNat 8 (Bits.ofBool carry)).toNat = Bits.ofBool carry := by cases carry <;> rfl
    have hor := Nat.two_pow_add_eq_or_of_lt (i := 1) (b := Bits.ofBool carry) (by cases carry <;> decide) (v.toNat % 128)
    simp only [Flags.shiftResult, shiftOf, Claims.shiftOutcome, BitVec.toNat_or, hl, hb]
    refine hor.symm.trans (?_ : _ = v.toNat * 2 % 256 + Bits.ofBool carry)
    omega
  · have hb : (BitVec.ofNat 8 (Bits.ofBool carry * 128)).toNat = 128 * Bits.ofBool carry := by cases carry <;> rfl
    have hc : (if carry = true then 128 else 0) = 128 * Bits.ofBool carry := by cases carry <;> rfl
    have hor := Nat.two_pow_add_eq_or_of_lt (i := 7) (b := v.toNat / 2) (by omega) (Bits.ofBool carry)
    simp only [Flags.shiftResult, shiftOf, Claims.shiftOutcome, BitVec.toNat_or, hr, hb, hc]
    rw [Nat.or_comm, Nat.add_comm]
    exact hor.symm

/-- Which shared operation an instruction that loads its operand and writes it back is. -/
theorem exec_modifier (hi : mnemonicOf i ∈ [.inc, .dec, .asl, .lsr, .rol, .ror]) (ho : operandOf i = .mode am)
    (s : State) : ∃ r p, (∀ m w, r m (s.setPC w) = r m s) ∧ (∀ m w, p m (s.setPC w) = p m s) ∧
      exec i s = modifyOperand i am r p s := by
  obtain hk | hk | hk : mnemonicOf i = .inc ∨ mnemonicOf i = .dec ∨ mnemonicOf i ∈ [.asl, .lsr, .rol, .ror] := by
    simpa using hi
  · exact ⟨_, _, fun _ _ => rfl, fun _ _ => rfl, exec_inc s hk ho⟩
  · exact ⟨_, _, fun _ _ => rfl, fun _ _ => rfl, exec_dec s hk ho⟩
  · exact ⟨_, _, fun _ _ => rfl, fun _ _ => rfl, exec_shift hk ho s⟩

/-! ### Refused accesses to an operand -/

/-- An operand that is not found is the fault of an instruction that loads or stores it. -/
theorem exec_fault_of_locate (hi : mnemonicOf i ∈ Claims.readers ++ Claims.writers) (ho : operandOf i = .mode am)
    (h : locate am s = .error f) : exec i s = .fault f := by
  obtain hi | hi := List.mem_append.1 hi
  · obtain ⟨g, hx⟩ := exec_reader hi ho s
    exact hx.trans (onOperand_fault.2 (.inl h))
  · obtain ⟨v, hv, hx⟩ | ⟨r, p, hr, hp, hx⟩ := exec_writer hi ho s
    · exact hx.trans ((storeOperand_fault hv).2 (.inl h))
    · exact hx.trans ((modifyOperand_fault hr hp).2 (.inl h))

section
variable {l : Located} {u v : State} {m : Byte}

/-- A refused load of the operand is the fault of an instruction that loads it. -/
theorem exec_fault_of_load (hi : mnemonicOf i ∈ Claims.readers ++ [.inc, .dec, .asl, .lsr, .rol, .ror])
    (ho : operandOf i = .mode am) (hl : locate am s = .ok (l, u)) (h : l.load u = .error f) :
    exec i s = .fault f := by
  obtain hi | hi := List.mem_append.1 hi
  · obtain ⟨g, hx⟩ := exec_reader hi ho s
    exact hx.trans (onOperand_fault.2 (.inr ⟨l, u, hl, h⟩))
  · obtain ⟨r, p, hr, hp, hx⟩ := exec_modifier hi ho s
    exact hx.trans ((modifyOperand_fault hr hp).2 (.inr (.inl ⟨l, u, hl, h⟩)))

end

end

end Sys2Proof.Machine
end

section
/-! What no instruction reaches: INTERRUPT, STALL, the fault status and the parameters MEM and TIMING
(spec/10_state.md R39 to R41, spec/40_engine_addressing.md R133). -/

namespace Sys2Proof.Machine

/-- The parts of a state that no instruction writes. -/
def State.fixedParts (s : State) : Interrupt × Byte × Option Fault × Config.MemMap × Config.Timing :=
  (s.interrupt, s.stall, s.fault, s.map, s.timing)

section
variable {s t u : State}

theorem State.Accesses.fixedParts (h : s.Accesses t) : t.fixedParts = s.fixedParts := by
  obtain ⟨m, e, rfl⟩ := h
  rfl

theorem State.Reads.fixedParts (h : s.Reads t) : t.fixedParts = s.fixedParts := h.accesses.fixedParts

theorem Located.save_fixedParts {l : Located} {v : Byte} (h : l.save v s = .ok t) : t.fixedParts = s.fixedParts := by
  obtain ⟨-, rfl⟩ | ⟨ea, c, -, h⟩ := Located.save_ok h
  · rfl
  · exact (State.store_accesses h).fixedParts

/-- The operations of the stack and of the indirect jump, by what each leaves. -/
theorem Action.fixedParts {i : Instr} {f : State → State → Except Fault State} (hf : Action i f)
    (h : f s t = .ok u) : u.fixedParts = t.fixedParts := by
  cases hf with
  | jmpInd pointer =>
    obtain ⟨⟨_, v⟩, hv, h⟩ := bind_ok.1 h
    cases h
    exact (State.readWord_reads hv).fixedParts
  | jsr address =>
    obtain ⟨v, hv, h⟩ := bind_ok.1 h
    cases h
    obtain ⟨m, e, rfl⟩ := State.push16_frame hv
    rfl
  | rts =>
    obtain ⟨⟨_, v⟩, hv, h⟩ := bind_ok.1 h
    cases h
    obtain ⟨e, rfl⟩ := State.pop16_frame hv
    rfl
  | pha | php =>
    obtain ⟨m, e, rfl⟩ := State.push_frame h
    rfl
  | pla | plp =>
    obtain ⟨⟨_, v⟩, hv, h⟩ := bind_ok.1 h
    cases h
    obtain ⟨e, rfl⟩ := State.pop_frame hv
    rfl
  | brk =>
    obtain ⟨m, e, target, rfl⟩ := State.enter_frame h
    rfl
  | rti =>
    obtain ⟨e, p, target, rfl⟩ := State.leave_frame h
    rfl

/-- An instruction that completes keeps these parts, form by form. -/
theorem exec_fixedParts {i : Instr} (h : exec i s = .next t) : t.fixedParts = s.fixedParts := by
  cases form_of i with
  | reads am hρ ho hx =>
    obtain ⟨l, u, m, v, hl, hm, rfl⟩ := onOperand_next (congrFun hx s ▸ h)
    exact ((locate_reads hl).trans (Located.load_reads hm)).fixedParts
  | stores am hv hx ha =>
    obtain ⟨l, u, w, hl, hw, rfl⟩ := storeOperand_next (fun _ => rfl) (congrFun hx s ▸ h)
    exact (Located.save_fixedParts hw).trans (locate_reads hl).fixedParts
  | modifies am hm ho hx =>
    obtain ⟨l, u, m, v, w, hl, hm, hw, rfl⟩ := modifyOperand_next (fun _ _ => rfl) (fun _ _ => rfl) (congrFun hx s ▸ h)
    exact (Located.save_fixedParts hw).trans ((locate_reads hl).trans (Located.load_reads hm)).fixedParts
  | registers _ hx | flag _ hx =>
    have h := congrFun hx s ▸ h
    rw [onRegisters_eq] at h
    cases h
    rfl
  | branches offset hb hx =>
    have h := congrFun hx s ▸ h
    rw [opBranch_eq] at h
    split at h <;> cases h <;> rfl
  | jmpAbs address =>
    cases h
    rfl
  | acts hf hx =>
    obtain ⟨u, hu, rfl⟩ := onStack_next (congrFun hx s ▸ h)
    exact (hf.fixedParts hu :)
  | illegal opcode => cases h

end

end Sys2Proof.Machine
end

section
/-! TIMING and CYCLES decide nothing but CYCLES (spec/40_engine_addressing.md R134, spec/70_reset_and_hazards.md
R351). -/

namespace Sys2Proof.Machine

/-- Where two computations commute with a change of what they are given and of what they answer, so does their
sequence. -/
theorem bind_commutes {α α' β β' : Type} {x : Except Fault α} {x' : Except Fault α'} {k : α → Except Fault β}
    {k' : α' → Except Fault β'} {g : α → α'} {h : β → β'} (hx : x' = x.map g) (hk : ∀ a, k' (g a) = (k a).map h) :
    (x' >>= k') = (x >>= k).map h := by
  subst hx
  cases x with
  | error f => rfl
  | ok a => exact hk a

/-- The state with another TIMING and another value of CYCLES. -/
def State.withClock (timing : Config.Timing) (cycles : Nat) (s : State) : State :=
  { s with timing := timing, cycles := cycles }

/-! ### The operations of a state -/

section
variable (timing : Config.Timing) (cycles : Nat) (s : State)

theorem inert_withClock : Inert (State.withClock timing cycles) :=
  ⟨fun _ => rfl, fun _ => rfl, fun _ => rfl, fun _ _ => rfl, fun _ _ => rfl⟩

theorem State.push_withClock (v : Byte) :
    (s.withClock timing cycles).push v = (s.push v).map (State.withClock timing cycles) :=
  bind_commutes ((inert_withClock timing cycles).store s _ v) fun _ => rfl

theorem State.push16_withClock (w : Word) :
    (s.withClock timing cycles).push16 w = (s.push16 w).map (State.withClock timing cycles) :=
  bind_commutes (s.push_withClock timing cycles _) fun t => t.push_withClock timing cycles _

theorem State.pop_withClock :
    (s.withClock timing cycles).pop = s.pop.map fun r => (r.1, r.2.withClock timing cycles) :=
  bind_commutes ((inert_withClock timing cycles).read s _) fun _ => rfl

theorem State.pop16_withClock :
    (s.withClock timing cycles).pop16 = s.pop16.map fun r => (r.1, r.2.withClock timing cycles) :=
  bind_commutes (s.pop_withClock timing cycles) fun r => bind_commutes (r.2.pop_withClock timing cycles) fun _ => rfl

theorem State.enter_withClock (ret vec : Word) (pushed : Byte) :
    (s.withClock timing cycles).enter ret pushed vec =
      (s.enter ret pushed vec).map (State.withClock timing cycles) :=
  bind_commutes (s.push16_withClock timing cycles ret) fun t =>
    bind_commutes (t.push_withClock timing cycles pushed) fun u =>
      bind_commutes ((inert_withClock timing cycles).readWord (u.setP (Flags.put u.p Flags.iBit true)) _ _) fun _ => rfl

theorem State.leave_withClock :
    (s.withClock timing cycles).leave = s.leave.map (State.withClock timing cycles) :=
  bind_commutes (s.pop_withClock timing cycles) fun r =>
    bind_commutes ((r.2.setP (Flags.pulled r.1)).pop16_withClock timing cycles) fun _ => rfl

theorem Action.withClock {i : Instr} {f : State → State → Except Fault State} (hf : Action i f) (t : State) :
    f (s.withClock timing cycles) (t.withClock timing cycles) = (f s t).map (State.withClock timing cycles) := by
  cases hf with
  | jmpInd pointer => exact bind_commutes ((inert_withClock timing cycles).readWord t _ _) fun _ => rfl
  | jsr address => exact bind_commutes (t.push16_withClock timing cycles _) fun _ => rfl
  | rts => exact bind_commutes (t.pop16_withClock timing cycles) fun _ => rfl
  | pha | php => exact t.push_withClock timing cycles _
  | pla | plp => exact bind_commutes (t.pop_withClock timing cycles) fun _ => rfl
  | brk => exact t.enter_withClock timing cycles _ _ _
  | rti => exact t.leave_withClock timing cycles

theorem fetch_withClock :
    fetch (s.withClock timing cycles) = (fetch s).map fun r => (r.1, r.2.withClock timing cycles) := by
  have hread (t : State) (a : Word) := (inert_withClock timing cycles).read t a
  refine bind_commutes (hread s s.pc) fun r => ?_
  dsimp only
  obtain hl | hl | hl := tableEntry_length_cases r.1 <;> simp only [hl]
  · rfl
  · exact bind_commutes (hread r.2 _) fun _ => rfl
  · exact bind_commutes (hread r.2 _) fun q => bind_commutes (hread q.2 _) fun _ => rfl

end

/-! ### The outcome of an instruction and of a step -/

/-- Whatever TIMING and CYCLES are, the outcome at a state is one fault, or one next state whose CYCLES are higher by a
number that TIMING alone decides. -/
inductive Unclocked (o : State → Host.Outcome State Fault Refusal) (s : State) : Prop
  | next (t : State) (charge : Config.Timing → Nat)
      (h : ∀ timing cycles, o (s.withClock timing cycles) = .next ((t.withClock timing cycles).addCycles (charge timing)))
  | fault (f : Fault) (h : ∀ timing cycles, o (s.withClock timing cycles) = .fault f)

theorem Unclocked.congr {o o' : State → Host.Outcome State Fault Refusal} {s s' : State} (ho : Unclocked o s)
    (h : ∀ timing cycles, o' (s'.withClock timing cycles) = o (s.withClock timing cycles)) : Unclocked o' s' := by
  cases ho with
  | next t charge ht => exact .next t charge fun timing cycles => (h timing cycles).trans (ht timing cycles)
  | fault f hf => exact .fault f fun timing cycles => (h timing cycles).trans (hf timing cycles)

section
variable {i : Instr} {am : AddressingMode} (s : State)

/-- An instruction is unclocked when its operation answers the same but for the charge. -/
theorem unclocked_of_execute {s : State} {o : State → Host.Outcome State Fault Refusal}
    {op : State → State → Except Fault (State × Nat)} (ho : ∀ s, o s = execute i (op s) s)
    (x : Except Fault (State × (Config.Timing → Nat)))
    (h : ∀ timing cycles, op (s.withClock timing cycles) ((s.setPC (nextPC i s)).withClock timing cycles) =
      x.map fun r => (r.1.withClock timing cycles, r.2 timing)) : Unclocked o s := by
  cases x with
  | error f => exact .fault f fun timing cycles => (ho _).trans (execute_of_error (h timing cycles))
  | ok r => exact .next r.1 r.2 fun timing cycles => (ho _).trans (execute_of_ok (h timing cycles))

theorem onRegisters_unclocked {g : State → State}
    (hg : ∀ timing cycles t, g (t.withClock timing cycles) = (g t).withClock timing cycles) :
    Unclocked (onRegisters i g) s :=
  unclocked_of_execute (fun _ => rfl) (.ok (g (s.setPC (nextPC i s)), fun timing => cycleCost timing i false 0))
    fun timing cycles => congrArg (fun t => Except.ok (t, cycleCost timing i false 0)) (hg timing cycles _)

theorem onStack_unclocked {f : State → State → Except Fault State} (hf : Action i f) :
    Unclocked (fun s => onStack i (f s) s) s :=
  unclocked_of_execute (fun _ => rfl) (do
      let u ← f s (s.setPC (nextPC i s))
      return (u, fun timing => cycleCost timing i false 0))
    fun timing cycles => bind_commutes (hf.withClock timing cycles s _) fun _ => rfl

theorem onOperand_unclocked {g : Byte → State → State}
    (hg : ∀ timing cycles m t, g m (t.withClock timing cycles) = (g m t).withClock timing cycles) :
    Unclocked (onOperand i am g) s :=
  unclocked_of_execute (fun _ => rfl) (do
      let (l, u) ← locate am (s.setPC (nextPC i s))
      let (m, v) ← l.load u
      return (g m v, fun timing => cycleCost timing i l.crossed 0))
    fun timing cycles =>
      bind_commutes ((inert_withClock timing cycles).locate am _ rfl rfl) fun r =>
        bind_commutes ((inert_withClock timing cycles).loadLocated r.1 r.2 rfl) fun q =>
          congrArg (fun t => Except.ok (t, cycleCost timing i r.1.crossed 0)) (hg timing cycles q.1 q.2)

theorem storeOperand_unclocked {v : Regs → Byte} : Unclocked (storeOperand i am fun t => v t.regs) s :=
  unclocked_of_execute (fun _ => rfl) (do
      let (l, u) ← locate am (s.setPC (nextPC i s))
      let w ← l.save (v s.regs) u
      return (w, fun timing => cycleCost timing i l.crossed 0))
    fun timing cycles =>
      bind_commutes ((inert_withClock timing cycles).locate am _ rfl rfl) fun r =>
        bind_commutes ((inert_withClock timing cycles).saveLocated r.1 _ r.2 fun _ _ => rfl) fun _ => rfl

theorem modifyOperand_unclocked {new status : Byte → Regs → Byte} :
    Unclocked (modifyOperand i am (fun m t => new m t.regs) fun m t => status m t.regs) s :=
  unclocked_of_execute (fun _ => rfl) (do
      let (l, u) ← locate am (s.setPC (nextPC i s))
      let (m, v) ← l.load u
      let w ← l.save (new m s.regs) v
      return (w.setP (status m s.regs), fun timing => cycleCost timing i l.crossed 0))
    fun timing cycles =>
      bind_commutes ((inert_withClock timing cycles).locate am _ rfl rfl) fun r =>
        bind_commutes ((inert_withClock timing cycles).loadLocated r.1 r.2 rfl) fun q =>
          bind_commutes ((inert_withClock timing cycles).saveLocated r.1 _ q.2 fun _ _ => rfl) fun _ => rfl

theorem opBranch_unclocked {k : Nat} {want : Bool} {offset : Byte} :
    Unclocked (opBranch i (fun t => Flags.get t.p k) want offset) s := by
  by_cases h : Flags.get s.p k = want
  · exact .next (s.setPC (branchTarget (nextPC i s) offset))
      (fun timing => cycleCost timing i false (branchExtra timing (nextPC i s) (branchTarget (nextPC i s) offset)))
      fun timing cycles => (opBranch_eq ..).trans (if_pos h)
  · exact .next (s.setPC (nextPC i s)) (fun timing => cycleCost timing i false 0)
      fun timing cycles => (opBranch_eq ..).trans (if_neg h)

theorem exec_unclocked (i : Instr) : Unclocked (exec i) s := by
  cases form_of i with
  | reads am hρ ho hx => exact hx ▸ onOperand_unclocked s fun _ _ _ _ => rfl
  | stores am hv hx ha => exact hx ▸ storeOperand_unclocked s
  | modifies am hm ho hx => exact hx ▸ modifyOperand_unclocked s
  | registers hρ hx | flag hf hx => exact hx ▸ onRegisters_unclocked s fun _ _ _ => rfl
  | branches offset hb hx => exact hx ▸ opBranch_unclocked s
  | jmpAbs address => exact onRegisters_unclocked (g := fun t => t.setPC address) s fun _ _ _ => rfl
  | acts hf hx => exact hx ▸ onStack_unclocked s hf
  | illegal opcode => exact .fault (.illegalOpcode opcode s.pc) fun _ _ => rfl

theorem interruptStep_unclocked (k : InterruptKind) : Unclocked (interruptStep k) s := by
  have henter (timing : Config.Timing) (cycles : Nat) := (s.setInterrupt .none).enter_withClock timing cycles
    s.pc (vectorOf k) (Flags.pushedByInterrupt s.p)
  have hstep (timing : Config.Timing) (cycles : Nat) : interruptStep k (s.withClock timing cycles) =
      finish (((s.setInterrupt .none).withClock timing cycles).enter s.pc (Flags.pushedByInterrupt s.p) (vectorOf k) >>=
        fun t => pure (t.addCycles timing.entry)) := rfl
  cases hx : (s.setInterrupt .none).enter s.pc (Flags.pushedByInterrupt s.p) (vectorOf k) with
  | error f => exact .fault f fun timing cycles => by rw [hstep, henter, hx]; rfl
  | ok t => exact .next t Config.Timing.entry fun timing cycles => by rw [hstep, henter, hx]; rfl

/-- A step is unclocked, by its kind. -/
theorem step_unclocked : Unclocked step s := by
  cases hf : s.fault with
  | some f => exact .fault f fun _ _ => step_of_faulted hf
  | none =>
    by_cases hs : s.stall = 0#8
    case neg => exact .next (s.setStall (s.stall - 1#8)) (fun _ => 1) fun _ _ => step_of_stall hf hs
    case pos =>
      cases hp : s.poll with
      | some k => exact (interruptStep_unclocked s k).congr fun timing cycles => step_of_poll hf hs hp
      | none =>
        have hstep (timing : Config.Timing) (cycles : Nat) :=
          step_of_ready (s := s.withClock timing cycles) ⟨hf, hs, hp⟩
        cases hx : fetch s with
        | error f => exact .fault f fun timing cycles => by rw [hstep, instructionStep, fetch_withClock, hx]; rfl
        | ok r =>
          exact (exec_unclocked r.2 r.1).congr fun timing cycles => by
            rw [hstep, instructionStep, fetch_withClock, hx]
            rfl

end

end Sys2Proof.Machine
end

section
/-! Which addresses a push leaves as they are (spec/20_memory.md R66, spec/40_engine_addressing.md R136, R138). -/

namespace Sys2Proof.Machine

section
variable {s t : State} {b : Word}

theorem State.store_map {a : Word} {v : Byte} (h : s.store a v = .ok t) : t.map = s.map := by
  obtain ⟨_, _, rfl⟩ := State.store_accesses h
  rfl

/-- The address `b` is outside the external regions and has another place than each of the first `n` stack slots. -/
def OutsideSlots (s : State) (n : Nat) (b : Word) : Prop :=
  Memory.placeOf s.map b ≠ .external ∧ ∀ k, k < n → Memory.placeOf s.map b ≠ Memory.placeOf s.map (Claims.slot s k)

/-- A store to one of these slots leaves the byte at `b`. -/
theorem OutsideSlots.store {n k : Nat} {v : Byte} {u : State} (h : OutsideSlots s n b) (hk : k < n)
    (hmap : t.map = s.map) (hs : t.store (Claims.slot s k) v = .ok u) : u.load b = t.load b ∧ u.map = s.map := by
  obtain ⟨he, hne⟩ := h
  exact ⟨State.store_frame hs (hmap ▸ hne k hk) (hmap ▸ he), (State.store_map hs).trans hmap⟩

theorem State.push_load {v : Byte} (h : OutsideSlots s 1 b) (hp : s.push v = .ok t) : t.load b = s.load b := by
  obtain ⟨u, hu, rfl⟩ := State.push_ok hp
  rw [← BitVec.sub_zero s.sp] at hu
  exact (h.store (k := 0) (by decide) rfl hu).1

theorem State.push16_load {w : Word} (h : OutsideSlots s 2 b) (hp : s.push16 w = .ok t) : t.load b = s.load b := by
  obtain ⟨u, v, hu, hv, rfl⟩ := State.push16_ok hp
  rw [← BitVec.sub_zero s.sp] at hu
  obtain ⟨h0, hm⟩ := h.store (k := 0) (by decide) rfl hu
  exact (h.store (k := 1) (by decide) hm hv).1.trans h0

theorem State.enter_load {ret vec : Word} {pushed : Byte} (h : OutsideSlots s 3 b)
    (he : s.enter ret pushed vec = .ok t) : t.load b = s.load b := by
  obtain ⟨u, v, w, x, target, hu, hv, hw, hx, rfl⟩ := State.enter_ok he
  rw [← BitVec.sub_zero s.sp] at hu
  obtain ⟨h0, hm0⟩ := h.store (k := 0) (by decide) rfl hu
  obtain ⟨h1, hm1⟩ := h.store (k := 1) (by decide) hm0 hv
  obtain ⟨h2, hm2⟩ := h.store (k := 2) (by decide) hm1 hw
  have h3 : x.load b = w.load b := (State.readWord_reads hx).sameMemory.load (hm2 ▸ h.1)
  exact h3.trans (h2.trans (h1.trans h0))

/-- The operations that push leave the byte of every place that is not one of their slots. -/
theorem Action.load_of_pusher {i : Instr} {f : State → State → Except Fault State} {u : State} (hf : Action i f)
    (hi : mnemonicOf i ∈ Claims.pushers) (h : OutsideSlots t (Claims.pushCount (mnemonicOf i)) b)
    (hu : f s t = .ok u) : u.load b = t.load b := by
  cases hf with
  | pha | php => exact State.push_load h hu
  | jsr address =>
    obtain ⟨v, hv, hu⟩ := bind_ok.1 hu
    cases hu
    exact (State.push16_load h hv :)
  | brk => exact State.enter_load h hu
  | jmpInd | rts | pla | plp | rti => simp [mnemonicOf, Claims.pushers] at hi

/-- Which operation of the stack a pushing instruction is. -/
theorem exists_action_of_pusher {i : Instr} (hi : mnemonicOf i ∈ Claims.pushers) :
    ∃ f, Action i f ∧ exec i = fun s => onStack i (f s) s := by
  cases i with
  | pha => exact ⟨_, .pha, rfl⟩
  | php => exact ⟨_, .php, rfl⟩
  | jsr address => exact ⟨_, .jsr address, rfl⟩
  | brk => exact ⟨_, .brk, rfl⟩
  | _ => simp [mnemonicOf, Claims.pushers] at hi

/-- A pushing instruction leaves the byte of every place that is not one of its slots. -/
theorem exec_pusher_load {i : Instr} (hi : mnemonicOf i ∈ Claims.pushers)
    (h : OutsideSlots s (Claims.pushCount (mnemonicOf i)) b) (hx : exec i s = .next t) : t.load b = s.load b := by
  obtain ⟨f, hf, he⟩ := exists_action_of_pusher hi
  obtain ⟨u, hu, rfl⟩ := onStack_next (congrFun he s ▸ hx)
  exact (hf.load_of_pusher (t := s.setPC (nextPC i s)) hi h hu :)

end

end Sys2Proof.Machine
end

section
/-! The obligations about the engine and the addressing modes (spec/40_engine_addressing.md). -/

namespace Sys2Proof.Proofs

open Sys2Proof.Machine

/-- Settles O12, by the fetch's reads in their order: each is refused only with its own address. -/
theorem fetchFaults : Obligations.FetchFaults := by
  intro s hs
  refine ⟨fun f hf => ⟨(State.load_error hf).1, ?_⟩, fun op t ht => ⟨fun f hl hf => ⟨(State.load_error hf).1, ?_⟩,
    fun b u hl hu f hf => ⟨(State.load_error hf).1, ?_⟩⟩⟩
  · exact step_of_fetch_error hs (fetch_of_opcode_error (State.read_error.2 hf))
  · exact step_of_fetch_error hs (fetch_of_operand_error ht hl (State.read_error.2 hf))
  · exact step_of_fetch_error hs (fetch_of_second_operand_error ht hl hu (State.read_error.2 hf))

/-- Settles O13: the port answers the placed bytes at PC and after it, and those the decoder takes are the fetch's. -/
theorem placedInstructionIsRun : Obligations.PlacedInstructionIsRun := by
  intro s nbits w i c0 c1 c2 h0 h1 h2 h01 h02 h12 hd
  obtain ⟨rest, hd⟩ : ∃ rest, decode (tableWordBytes nbits w) = .ok (i, rest) := by
    unfold decodeTableWord at hd
    split at hd
    · cases hd; exact ⟨_, ‹_›⟩
    · cases hd
  obtain ⟨op, b1, b2, -, he⟩ := decode_ok hd
  refine step_of_bytesRead (s.withInstruction_ready _) hd (bytesRead_of_getElem? fun k b hk => ?_)
  refine State.withInstruction_read h0 h1 h2 h01 h02 h12 rfl (?_ : (tableWordBytes nbits w)[k]? = some b)
  rw [he, List.getElem?_append_left (List.getElem?_eq_some_iff.1 hk).1, hk]

/-- Settles O15, by induction on the number of steps. -/
theorem stallRunsOut : Obligations.StallRunsOut :=
  fun s n hf => run_stall n.toNat s n hf rfl

/-- Settles O18, form by form of instruction. -/
theorem instructionKeepsRequests : Obligations.InstructionKeepsRequests := by
  intro i s t h
  simpa only [State.fixedParts, Prod.mk.injEq] using exec_fixedParts h

/-- Settles O20: under every TIMING and from every CYCLES a step has one outcome but for these two, and its charge does
not depend on CYCLES. -/
theorem cyclesAreNeverObserved : Obligations.CyclesAreNeverObserved := by
  intro s n timing
  cases step_unclocked s with
  | next u charge h =>
    refine ⟨fun t ht => ?_, fun f hf => ?_⟩
    · cases ht.symm.trans (h s.timing s.cycles)
      refine ⟨(h s.timing (s.cycles + n)).trans ?_, _, h timing s.cycles⟩
      simp only [State.withClock, State.addCycles, Nat.add_right_comm]
    · cases hf.symm.trans (h s.timing s.cycles)
  | fault e h =>
    refine ⟨fun t ht => ?_, fun f hf => ?_⟩
    · cases ht.symm.trans (h s.timing s.cycles)
    · cases hf.symm.trans (h s.timing s.cycles)
      exact ⟨h s.timing (s.cycles + n), h timing s.cycles⟩

/-- Settles O25, by the accesses of the shared operation that the instruction is. -/
theorem operandAccessFaults : Obligations.OperandAccessFaults := by
  intro i am s f ho
  refine ⟨fun hi h => exec_fault_of_locate hi ho h, fun ea crossed u hl =>
    ⟨fun hi h => exec_fault_of_load hi ho hl (State.read_error.2 h), fun hk h => ?_, fun hk h => ?_, fun hk h => ?_,
      fun m r v hm => ⟨fun hk h => ?_, fun hk h => ?_, fun hk hr h => ?_⟩⟩⟩
  · exact (exec_sta s hk ho).trans ((storeOperand_fault fun _ => rfl).2 (.inr ⟨_, u, hl, h⟩))
  · exact (exec_stx s hk ho).trans ((storeOperand_fault fun _ => rfl).2 (.inr ⟨_, u, hl, h⟩))
  · exact (exec_sty s hk ho).trans ((storeOperand_fault fun _ => rfl).2 (.inr ⟨_, u, hl, h⟩))
  · exact (exec_inc s hk ho).trans
      ((modifyOperand_fault (fun _ _ => rfl) fun _ _ => rfl).2 (.inr (.inr ⟨_, u, m, v, hl, hm, h⟩)))
  · exact (exec_dec s hk ho).trans
      ((modifyOperand_fault (fun _ _ => rfl) fun _ _ => rfl).2 (.inr (.inr ⟨_, u, m, v, hl, hm, h⟩)))
  · rw [← shiftResult_toNat hk, BitVec.toNat_inj] at hr
    subst hr
    exact (exec_shift hk ho s).trans
      ((modifyOperand_fault (fun _ _ => rfl) fun _ _ => rfl).2 (.inr (.inr ⟨_, u, m, v, hl, hm, h⟩)))

/-- Settles O27: a push is its store and then SP one lower. -/
theorem pushWritesThenDecrements : Obligations.PushWritesThenDecrements := by
  intro s v
  rw [← stackAddress_eq_ofNat]
  refine ⟨fun t => State.push_of_store, fun f => State.push_error.2, fun h => State.push_of_stackRam h v, ?_⟩
  rw [BitVec.toNat_sub, Nat.add_comm]
  rfl

/-- Settles O28: a pop is a read at SP one higher, which after a push is the address written. -/
theorem popReversesPush : Obligations.PopReversesPush := by
  refine ⟨fun s t v h => ?_, fun s f h => ?_, fun s t v => State.pop_of_push⟩
  · rw [← stackAddress_add_one] at h
    exact State.pop_of_read h
  · rw [← stackAddress_add_one] at h
    exact State.pop_error.2 h

/-- Settles O29: the direct modes by their definition, the two indirect ones by their pointer reads in order. -/
theorem addressingModes : Obligations.AddressingModes := by
  intro s b w
  have hx : Bits.zext16 (b + s.x + 1#8) = BitVec.ofNat 16 ((b.toNat + s.x.toNat + 1) % 256) := by
    rw [Bits.zext16_add_one, BitVec.toNat_add, Nat.mod_add_mod]
  rw [← hx, ← Bits.zext16_add, ← Bits.zext16_add, ← Bits.zext16_add_one, ← Bits.zext16_eq_ofNat, ← Bits.add_zext16,
    ← Bits.add_zext16]
  refine ⟨rfl, rfl, rfl, fun v => ⟨rfl, rfl, rfl⟩, rfl, rfl, rfl, rfl, ⟨_, rfl⟩, ⟨_, rfl⟩, ?_, ?_, ?_, ?_,
    fun k => ⟨rfl, rfl⟩⟩
  · exact fun f h => locate_indexedIndirect_of_error (State.readWord_error.2 (.inl h))
  · refine fun lo t h => ⟨fun f h' => ?_, fun hi u h' => ?_⟩
    · exact locate_indexedIndirect_of_error (State.readWord_error.2 (.inr ⟨lo, t, h, h'⟩))
    · rw [← Bits.join_eq_ofNat]
      exact locate_indexedIndirect_of_read (State.readWord_of_reads h h')
  · exact fun f h => locate_indirectIndexed_of_error (State.readWord_error.2 (.inl h))
  · refine fun lo t h => ⟨fun f h' => ?_, fun hi u h' => ?_⟩
    · exact locate_indirectIndexed_of_error (State.readWord_error.2 (.inr ⟨lo, t, h, h'⟩))
    · rw [← Bits.join_add_zext16]
      exact ⟨_, locate_indirectIndexed_of_read (State.readWord_of_reads h h')⟩

/-- Settles O30: only an indexed place can be crossed, and it compares the pages of base and address. -/
theorem pageCrossing : Obligations.PageCrossing := by
  intro s t b w base ea k
  refine ⟨fun h => ?_, fun h => ?_, fun u hu h => ?_, fun am l => locate_not_crossed⟩
  · exact indexed_crossed (congrArg Prod.fst (Except.ok.inj h))
  · exact indexed_crossed (congrArg Prod.fst (Except.ok.inj h))
  · rw [locate_indirectIndexed_of_read hu] at h
    exact indexed_crossed (congrArg Prod.fst (Except.ok.inj h))

/-- Settles O56: the stores of a pushing instruction are to its slots. -/
theorem stackStoreFrame : Obligations.StackStoreFrame :=
  fun _ _ _ h hi _ hb hne => exec_pusher_load hi ⟨hb, hne⟩ h

/-- Settles O11: the bytes decoded are those of the instruction, and reads change external regions alone. -/
theorem stepRunsDecodedInstruction : Obligations.StepRunsDecodedInstruction := by
  intro s t bytes i hs hd hb
  obtain ⟨op, b1, b2, -, he⟩ := decode_ok hd
  obtain ⟨e, ht⟩ := bytesRead_reads hb
  rw [List.append_nil] at he
  exact ⟨step_of_bytesRead hs hd (he ▸ hb), by rw [ht]; rfl, bytesRead_eq hb⟩

/-- Settles O14: a stall step comes first, and it is this state. -/
theorem stallStepEffect : Obligations.StallStepEffect := fun _ hf hs => step_of_stall hf hs

/-- Settles O58: the host's step records what the step answers, and no run leaves a faulted state. -/
theorem faultStatus : Obligations.FaultStatus := by
  intro s f
  refine ⟨fun h => ?_, fun h => ⟨step_of_faulted h, ?_, rfl, ?_, ?_⟩⟩
  · simp only [State.hostStep, h]; rfl
  · simp only [State.hostStep, step_of_faulted h, State.setFault, ← h]
  · rintro done ⟨n, t, hr, ht, -⟩
    rw [run_of_faulted h hr] at ht
    cases ht
  · rintro n ⟨hn, -⟩
    rw [h] at hn
    cases hn

end Sys2Proof.Proofs
end

section
/-! What the shared operations answer, written over the state before the instruction: an instruction that loads or
stores its operand, and one on registers alone (spec/40_engine_addressing.md R133, R134, R139). -/

namespace Sys2Proof.Machine

section
variable {i : Instr} {am : AddressingMode} {s u v : State}

/-- A reading instruction computes with the registers it started from: its reads have only been remembered. -/
theorem onOperand_eq_of_load {g : Byte → State → State} {l : Located} {m : Byte} (hl : locate am s = .ok (l, u))
    (hm : l.load u = .ok (m, v)) :
    onOperand i am g s = .next ((g m ((s.setExternal v.external).setPC (nextPC i s))).addCycles
      (cycleCost s.timing i l.crossed 0)) := by
  obtain ⟨e, rfl⟩ := (locate_reads hl).trans (Located.load_reads hm)
  exact onOperand_of_load hl hm

/-- A store that the port accepts leaves every register but PC. -/
theorem storeOperand_eq_of_store {w : State → Byte} {ea : Word} {k : Bool} (hl : locate am s = .ok (.memory ea k, u))
    (hw : ∀ pc, w (s.setPC pc) = w s) (hv : u.store ea (w s) = .ok v) :
    storeOperand i am w s = .next ((((s.setMem v.mem).setExternal v.external).setPC (nextPC i s)).addCycles
      (cycleCost s.timing i k 0)) := by
  obtain ⟨m, e, rfl⟩ := (locate_reads hl).accesses.trans (State.store_accesses hv)
  exact storeOperand_of_save hl hw hv

/-- An instruction of one byte on registers alone costs its base cycles. -/
theorem onRegisters_of_length_one {g : State → State} (h : lengthOf i = 1) :
    onRegisters i g s = .next ((g (s.setPC (s.pc + 1#16))).addCycles (costOf s.timing i).base) := by
  rw [onRegisters_eq, nextPC, h]
  rfl

end

end Sys2Proof.Machine
end

section
/-! The obligations about loads, stores and transfers (spec/41_load_store_transfer.md). -/

namespace Sys2Proof.Proofs

open Sys2Proof.Machine

/-- Settles O31: the three loads are reading instructions, each into its register. -/
theorem loadResults : Obligations.LoadResults := by
  intro i am s u v l m ho hl hm
  refine ⟨fun hk => ?_, fun hk => ?_, fun hk => ?_⟩
  · exact (exec_lda s hk ho).trans (onOperand_eq_of_load hl hm)
  · exact (exec_ldx s hk ho).trans (onOperand_eq_of_load hl hm)
  · exact (exec_ldy s hk ho).trans (onOperand_eq_of_load hl hm)

/-- Settles O32: the three stores save their register, which advancing PC does not change. -/
theorem storeResults : Obligations.StoreResults := by
  intro i am s t u ea k ho hl
  refine ⟨fun hk hs => ?_, fun hk hs => ?_, fun hk hs => ?_⟩
  · exact (exec_sta s hk ho).trans (storeOperand_eq_of_store hl (fun _ => rfl) hs)
  · exact (exec_stx s hk ho).trans (storeOperand_eq_of_store hl (fun _ => rfl) hs)
  · exact (exec_sty s hk ho).trans (storeOperand_eq_of_store hl (fun _ => rfl) hs)

/-- Settles O33: each transfer is one byte long and an operation on registers alone. -/
theorem transferResults : Obligations.TransferResults := fun s =>
  ⟨show execTax s = _ from onRegisters_of_length_one rfl,
    show execTay s = _ from onRegisters_of_length_one rfl,
    show execTxa s = _ from onRegisters_of_length_one rfl,
    show execTya s = _ from onRegisters_of_length_one rfl,
    show execTsx s = _ from onRegisters_of_length_one rfl,
    show execTxs s = _ from onRegisters_of_length_one rfl⟩

end Sys2Proof.Proofs
end

section
/-! What the binary sum with carry leaves in A and in P, as integers, and SBC's sum with the complemented operand as the
exact difference with borrow (spec/42_arithmetic_logic.md R190, R191). -/

namespace Sys2Proof.Machine

namespace Flags

section
variable (p a m : Byte) (carry : Bool)

theorem adcResult_toNat : (adcResult a m carry).toNat = adcSum a m carry % 256 := BitVec.toNat_ofNat ..

/-- V of the bit formula: the operands have one sign and the result has the other (R190). -/
theorem overflowBit_iff (r : Byte) : (~~~(a ^^^ m) &&& (a ^^^ r)).getLsbD 7 = true ↔
    (128 ≤ a.toNat ↔ 128 ≤ m.toNat) ∧ ¬(128 ≤ a.toNat ↔ 128 ≤ r.toNat) := by
  rw [BitVec.getLsbD_and, BitVec.getLsbD_not, BitVec.getLsbD_xor, BitVec.getLsbD_xor, getLsbD_seven, getLsbD_seven,
    getLsbD_seven]
  simp

/-- The two signs disagree as the bit formula asks exactly when the signed sum is out of range. -/
theorem overflowBit_adcResult_iff : (~~~(a ^^^ m) &&& (a ^^^ adcResult a m carry)).getLsbD 7 = true ↔
    a.toInt + m.toInt + (if carry then 1 else 0) < -128 ∨ 127 < a.toInt + m.toInt + (if carry then 1 else 0) := by
  have ha := a.isLt
  have hm := m.isLt
  rw [overflowBit_iff, adcResult_toNat, adcSum, Bits.ofBool, BitVec.toInt_eq_toNat_cond,
    BitVec.toInt_eq_toNat_cond]
  split_ifs <;> omega

/-- C after ADC: the exact sum exceeds 255 (R190). -/
theorem adcStatus_c_iff : get (adcStatus p a m carry) cBit = true ↔ 255 < adcSum a m carry := by
  simp [get_adcStatus]

/-- V after ADC: the exact signed sum is out of range (R190). -/
theorem adcStatus_v_iff : get (adcStatus p a m carry) vBit = true ↔
    a.toInt + m.toInt + (if carry then 1 else 0) < -128 ∨ 127 < a.toInt + m.toInt + (if carry then 1 else 0) := by
  rw [← overflowBit_adcResult_iff]
  simp [get_adcStatus]

/-! ### The complemented operand of SBC -/

theorem toNat_complement : (m ^^^ 0xFF#8).toNat = 255 - m.toNat := by
  rw [show m ^^^ 0xFF#8 = ~~~m from BitVec.xor_allOnes, BitVec.toNat_not]

theorem toInt_complement : (m ^^^ 0xFF#8).toInt = -m.toInt - 1 := by
  have hm := m.isLt
  rw [BitVec.toInt_eq_toNat_cond, BitVec.toInt_eq_toNat_cond, toNat_complement]
  split_ifs <;> omega

/-- The sum with the complement is 256 above the exact difference with borrow (R191). -/
theorem adcSum_complement : (adcSum a (m ^^^ 0xFF#8) carry : Int) =
    (a.toNat : Int) - m.toNat - (if carry then 0 else 1) + 256 := by
  have hm := m.isLt
  rw [adcSum, toNat_complement, Bits.ofBool]
  split_ifs <;> omega

/-- A after SBC: the exact difference mod 256 (R191). -/
theorem adcResult_complement_toNat : ((adcResult a (m ^^^ 0xFF#8) carry).toNat : Int) =
    ((a.toNat : Int) - m.toNat - (if carry then 0 else 1)) % 256 := by
  rw [adcResult_toNat, Int.natCast_emod, adcSum_complement]
  exact Int.add_emod_right ..

/-- C after SBC: no borrow (R191). -/
theorem adcStatus_complement_c_iff : get (adcStatus p a (m ^^^ 0xFF#8) carry) cBit = true ↔
    (0 : Int) ≤ (a.toNat : Int) - m.toNat - (if carry then 0 else 1) := by
  have hsum := adcSum_complement a m carry
  rw [adcStatus_c_iff]
  omega

/-- V after SBC: the exact signed difference is out of range (R191). -/
theorem adcStatus_complement_v_iff : get (adcStatus p a (m ^^^ 0xFF#8) carry) vBit = true ↔
    a.toInt - m.toInt - (if carry then 0 else 1) < -128 ∨ 127 < a.toInt - m.toInt - (if carry then 0 else 1) := by
  have hdiff : a.toInt + (-m.toInt - 1) + (if carry then 1 else 0) = a.toInt - m.toInt - (if carry then 0 else 1) := by
    split_ifs <;> omega
  rw [adcStatus_v_iff, toInt_complement, hdiff]

end

end Flags

section
variable {i : Instr} {am : AddressingMode} {s t u v : State}

/-- Z and N of a state are those of a byte by SetZN's two tests (R36). -/
theorem znOf_toNat {r : Byte} (hz : t.z = (r == 0#8)) (hn : t.n = r.getLsbD 7) : Claims.znOf t r.toNat := by
  refine ⟨?_, ?_⟩
  · rw [hz, beq_iff_eq, ← BitVec.toNat_inj]
    rfl
  · rw [hn, Flags.getLsbD_seven, decide_eq_true_iff]

/-- An instruction whose mnemonic writes none of I, D, B and bit 5 leaves all four. -/
theorem exec_sameControlBits (h : exec i s = .next t)
    (hk : ∀ j ∈ [Flags.iBit, Flags.dBit, Flags.bBit, Flags.uBit], j ∉ writtenBits (mnemonicOf i)) :
    Claims.sameControlBits s t := by
  have hbit {j : Nat} (hj : j ∉ writtenBits (mnemonicOf i)) := (exec_completes h).regs.get_p hj
  exact ⟨hbit (hk _ (by decide)), hbit (hk _ (by decide)), hbit (hk _ (by decide)), hbit (hk _ (by decide))⟩

/-- A read-modify-write of a memory byte whose store the port accepts leaves every register but P and PC. -/
theorem modifyOperand_eq_of_store {r p : Byte → State → Byte} {w : State} {ea : Word} {k : Bool} {m : Byte}
    (hl : locate am s = .ok (.memory ea k, u)) (hm : u.read ea = .ok (m, v))
    (hr : ∀ m pc, r m (s.setPC pc) = r m s) (hp : ∀ m pc, p m (s.setPC pc) = p m s)
    (hw : v.store ea (r m s) = .ok w) :
    modifyOperand i am r p s = .next (((((s.setMem w.mem).setExternal w.external).setPC (nextPC i s)).setP
      (p m s)).addCycles (cycleCost s.timing i k 0)) := by
  obtain ⟨_, _, rfl⟩ := ((locate_reads hl).trans (State.read_reads hm)).accesses.trans (State.store_accesses hw)
  exact modifyOperand_of_save hl hm hr hp hw

end

end Sys2Proof.Machine
end

section
/-! The obligations about arithmetic and logic (spec/42_arithmetic_logic.md). -/

namespace Sys2Proof.Proofs

open Sys2Proof.Machine

/-- Settles O34: ADC is the sum with its operand, and its flags are those of the exact sum. -/
theorem adcResult : Obligations.AdcResult := by
  intro i am s u v l m ho hl hm hk
  have hx := (exec_adc s hk ho).trans (onOperand_eq_of_load hl hm)
  exact ⟨_, hx, Flags.adcResult_toNat .., Flags.adcStatus_c_iff .., Flags.adcStatus_v_iff ..,
    znOf_toNat (Flags.get_adcStatus ..) (Flags.get_adcStatus ..), exec_sameControlBits hx (by rw [hk]; decide), rfl⟩

/-- Settles O35: SBC is the sum with its complemented operand, which is the exact difference. -/
theorem sbcResult : Obligations.SbcResult := by
  intro i am s u v l m ho hl hm hk
  have hx := (exec_sbc s hk ho).trans (onOperand_eq_of_load hl hm)
  exact ⟨_, hx, Flags.adcResult_complement_toNat .., Flags.adcStatus_complement_c_iff ..,
    Flags.adcStatus_complement_v_iff .., znOf_toNat (Flags.get_adcStatus ..) (Flags.get_adcStatus ..),
    exec_sameControlBits hx (by rw [hk]; decide), rfl⟩

/-- Settles O36: AND, ORA and EOR write A and do SetZN, and BIT writes three bits of P. -/
theorem logicResults : Obligations.LogicResults := by
  intro i am s u v l m ho hl hm
  refine ⟨fun hk => ?_, fun hk => ?_, fun hk => ?_, fun hk => ?_⟩
  · exact (exec_and s hk ho).trans (onOperand_eq_of_load hl hm)
  · exact (exec_ora s hk ho).trans (onOperand_eq_of_load hl hm)
  · exact (exec_eor s hk ho).trans (onOperand_eq_of_load hl hm)
  · have hx := (exec_bit s hk ho).trans (onOperand_eq_of_load hl hm)
    exact ⟨_, hx, (Bool.eq_iff_iff.1 (Flags.get_bitStatus ..)).trans beq_iff_eq, Flags.get_bitStatus ..,
      Flags.get_bitStatus .., Flags.get_bitStatus .., exec_sameControlBits hx (by rw [hk]; decide), rfl⟩

/-- Settles O37: both write back what they load, by one more or one less, to the same place. -/
theorem incDecResults : Obligations.IncDecResults := by
  intro i am s t u v ea k m ho hl hm
  refine ⟨fun hk hw => ?_, fun hk hw => ?_⟩
  · exact (exec_inc s hk ho).trans
      (modifyOperand_eq_of_store (r := fun m _ => m + 1#8) hl hm (fun _ _ => rfl) (fun _ _ => rfl) hw)
  · exact (exec_dec s hk ho).trans
      (modifyOperand_eq_of_store (r := fun m _ => m - 1#8) hl hm (fun _ _ => rfl) (fun _ _ => rfl) hw)

/-- Settles O38: each is one byte long and an operation on registers alone. -/
theorem indexStepResults : Obligations.IndexStepResults := fun s =>
  ⟨show execInx s = _ from onRegisters_of_length_one rfl,
    show execIny s = _ from onRegisters_of_length_one rfl,
    show execDex s = _ from onRegisters_of_length_one rfl,
    show execDey s = _ from onRegisters_of_length_one rfl⟩

end Sys2Proof.Proofs
end

section
/-! What a shift of the accumulator and of a memory byte answers, and the flags it leaves
(spec/43_shift_rotate.md R220 to R224). -/

namespace Sys2Proof.Machine

section
variable {i : Instr} {am : AddressingMode} {s t u v w : State}

theorem lengthOf_of_accumulator (ho : operandOf i = .mode .accumulator) : lengthOf i = 1 := by
  cases i <;> cases ho <;> rfl

/-- The bit that leaves a shift, by the number of the byte (R221 to R224). -/
theorem shiftOut_eq {k : Mnemonic} (hk : k ∈ [.asl, .lsr, .rol, .ror]) (m : Byte) (carry : Bool) :
    Flags.shiftOut (shiftOf k) m = (Claims.shiftOutcome k m.toNat carry).2 := by
  have h0 : m.getLsbD 0 = decide (m.toNat % 2 = 1) := Nat.testBit_zero _
  simp only [List.mem_cons, List.not_mem_nil, or_false] at hk
  obtain rfl | rfl | rfl | rfl := hk
  · exact Flags.getLsbD_seven m
  · exact h0
  · exact Flags.getLsbD_seven m
  · exact h0

/-- A shift of A, in full (R220). -/
theorem exec_shift_accumulator (hi : mnemonicOf i ∈ [.asl, .lsr, .rol, .ror])
    (ho : operandOf i = .mode .accumulator) (s : State) :
    exec i s = .next ((((s.setA (Flags.shiftResult (shiftOf (mnemonicOf i)) s.a s.c)).setPC (s.pc + 1#16)).setP
      (Flags.shiftStatus (shiftOf (mnemonicOf i)) s.p s.a s.c)).addCycles (costOf s.timing i).base) := by
  have hpc : nextPC i s = s.pc + 1#16 := by rw [nextPC, lengthOf_of_accumulator ho]
  rw [exec_shift hi ho, ← hpc]
  exact modifyOperand_of_save (l := .accumulator) (r := fun m t => Flags.shiftResult _ m t.c) rfl rfl (fun _ _ => rfl)
    (fun _ _ => rfl) rfl

/-- A shift of a memory byte whose store the port accepts, in full (R220). -/
theorem exec_shift_memory {ea : Word} {k : Bool} {m : Byte} (hi : mnemonicOf i ∈ [.asl, .lsr, .rol, .ror])
    (ho : operandOf i = .mode am) (hl : locate am s = .ok (.memory ea k, u)) (hm : u.read ea = .ok (m, v))
    (hw : v.store ea (Flags.shiftResult (shiftOf (mnemonicOf i)) m s.c) = .ok w) :
    exec i s = .next (((((s.setMem w.mem).setExternal w.external).setPC (nextPC i s)).setP
      (Flags.shiftStatus (shiftOf (mnemonicOf i)) s.p m s.c)).addCycles (cycleCost s.timing i k 0)) :=
  (exec_shift hi ho s).trans
    (modifyOperand_eq_of_store (r := fun m t => Flags.shiftResult _ m t.c) hl hm (fun _ _ => rfl) (fun _ _ => rfl) hw)

theorem c_of_shiftStatus {k : Flags.Shift} {p m : Byte} {carry : Bool} (hp : t.p = Flags.shiftStatus k p m carry) :
    t.c = Flags.shiftOut k m := by
  rw [State.c, hp, Flags.get_shiftStatus]
  rfl

/-- The flags of a shift that completes with P as SetZN and the bit that left make it (R220). -/
theorem exec_shift_flags {m : Byte} (hi : mnemonicOf i ∈ [.asl, .lsr, .rol, .ror]) (hx : exec i s = .next t)
    (hp : t.p = Flags.shiftStatus (shiftOf (mnemonicOf i)) s.p m s.c) :
    t.c = (Claims.shiftOutcome (mnemonicOf i) m.toNat s.c).2 ∧
      Claims.znOf t (Flags.shiftResult (shiftOf (mnemonicOf i)) m s.c).toNat ∧ t.v = s.v ∧
      Claims.sameControlBits s t := by
  have hget (j : Nat) := (congrArg (Flags.get · j) hp).trans (Flags.get_shiftStatus ..)
  have hbits : ∀ k ∈ [Mnemonic.asl, .lsr, .rol, .ror],
      ∀ j ∈ [Flags.iBit, Flags.dBit, Flags.bBit, Flags.uBit], j ∉ writtenBits k := by decide
  exact ⟨(c_of_shiftStatus hp).trans (shiftOut_eq hi m s.c), znOf_toNat (hget _) (hget _), hget _,
    exec_sameControlBits hx (hbits _ hi)⟩

end

end Sys2Proof.Machine
end

section
/-! ROL as a rotation of nine bits, A or a memory byte with C above it, and the same instruction executed several times
(spec/43_shift_rotate.md R223). -/

namespace Sys2Proof.Machine

/-! ### The ring of nine bits -/

/-- A byte and C after one ROL (R223). -/
def rolled (x : Byte × Bool) : Byte × Bool := (Flags.shiftResult .rol x.1 x.2, Flags.shiftOut .rol x.1)

/-- A byte with C as its ninth bit. -/
def nineBits (x : Byte × Bool) : BitVec 9 := BitVec.cons x.2 x.1

theorem nineBits_injective {x y : Byte × Bool} (h : nineBits x = nineBits y) : x = y := by
  have hbit (j : Nat) := congrArg (BitVec.getLsbD · j) h
  simp only [nineBits, BitVec.getLsbD_cons] at hbit
  refine Prod.ext (BitVec.eq_of_getLsbD_eq fun j hj => ?_) (hbit 8)
  simpa [hj.ne] using hbit j

/-- The bits of the result of ROL: C below the byte's own (R223). -/
theorem Flags.getLsbD_shiftResult_rol (v : Byte) (carry : Bool) {j : Nat} (hj : j < 8) :
    (shiftResult .rol v carry).getLsbD j = if j = 0 then carry else v.getLsbD (j - 1) := by
  have hcarry : (BitVec.ofNat 8 (Bits.ofBool carry)).getLsbD j = (decide (j = 0) && carry) := by
    cases carry <;> simp [Bits.ofBool, BitVec.getLsbD_one]
  rw [shiftResult, BitVec.getLsbD_or, BitVec.getLsbD_shiftLeft, hcarry]
  split <;> simp_all

/-- ROL moves every bit one place up and the ninth to the bottom. -/
theorem nineBits_rolled (x : Byte × Bool) {j : Nat} (hj : j < 9) :
    (nineBits (rolled x)).getLsbD ((j + 1) % 9) = (nineBits x).getLsbD j := by
  obtain ⟨v, carry⟩ := x
  simp only [nineBits, rolled, BitVec.getLsbD_cons]
  obtain h | rfl | rfl : j < 7 ∨ j = 7 ∨ j = 8 := by omega
  · rw [Nat.mod_eq_of_lt (by omega), if_neg (by omega), if_neg (by omega),
      Flags.getLsbD_shiftResult_rol _ _ (by omega), if_neg (by omega), Nat.add_sub_cancel]
  · rfl
  · exact Flags.getLsbD_shiftResult_rol v carry (by decide)

theorem nineBits_iterate_rolled (n : Nat) (x : Byte × Bool) {j : Nat} (hj : j < 9) :
    (nineBits (rolled^[n] x)).getLsbD ((j + n) % 9) = (nineBits x).getLsbD j := by
  induction n with
  | zero => rw [Nat.add_zero, Nat.mod_eq_of_lt hj]; rfl
  | succ n ih =>
    rw [Function.iterate_succ_apply', ← ih, ← nineBits_rolled (rolled^[n] x) (Nat.mod_lt _ (by decide)), Nat.mod_add_mod]
    rfl

/-- Nine places around the ring of nine bits is where a bit started. -/
theorem iterate_rolled_nine (x : Byte × Bool) : rolled^[9] x = x := by
  refine nineBits_injective (BitVec.eq_of_getLsbD_eq fun j hj => ?_)
  have h := nineBits_iterate_rolled 9 x hj
  rwa [Nat.add_mod_right, Nat.mod_eq_of_lt hj] at h

/-! ### One instruction executed several times -/

/-- Where an instruction keeps a property of the state and moves a part of it by `f`, `n` executions move it by `f`
iterated `n` times. -/
theorem repeated_next {α : Type} {i : Instr} {good : State → Prop} {part : State → α} {f : α → α}
    (h : ∀ s, good s → ∃ t, exec i s = .next t ∧ good t ∧ part t = f (part s)) (n : Nat) :
    ∀ s, good s → ∃ t, Claims.repeated i n s = .next t ∧ good t ∧ part t = f^[n] (part s) := by
  induction n with
  | zero => exact fun s hs => ⟨s, rfl, hs, rfl⟩
  | succ n ih =>
    intro s hs
    obtain ⟨u, hu, hgood, hpart⟩ := h s hs
    obtain ⟨t, ht, hgood, hpart'⟩ := ih u hgood
    refine ⟨t, ?_, hgood, ?_⟩
    · simpa only [Claims.repeated, hu] using ht
    · rw [hpart', hpart, Function.iterate_succ_apply]

/-- ROL A moves A and C by one place. -/
theorem exec_rolAcc_rolled (s : State) : ∃ t, exec .rolAcc s = .next t ∧ (t.a, t.c) = rolled (s.a, s.c) :=
  ⟨_, exec_shift_accumulator (by decide) rfl s, Prod.ext rfl (c_of_shiftStatus (k := .rol) rfl)⟩

/-! ### ROL of a RAM cell -/

section
variable {i : Instr} {am : AddressingMode} {s t u : State} {ea : Word} {k : Bool} {c : Nat}

theorem isIndirect_of_rol (hk : mnemonicOf i = .rol) (ho : operandOf i = .mode am) : isIndirect am = false := by
  cases i <;> simp only [mnemonicOf, reduceCtorEq] at hk <;> cases ho <;> rfl

/-- Outside the two indirect modes the place of an operand depends on X and Y alone. -/
theorem locate_congr {l : Located} (hd : isIndirect am = false) (hx : t.x = s.x) (hy : t.y = s.y)
    (h : locate am s = .ok (l, u)) : locate am t = .ok (l, t) := by
  cases am with
  | indexedIndirect | indirectIndexed => cases hd
  | _ =>
    cases h
    simp only [locate, hx, hy]

/-- The operand is the address `ea`, which is the RAM cell `c`. -/
def OperandIsCell (am : AddressingMode) (ea : Word) (k : Bool) (c : Nat) (s : State) : Prop :=
  locate am s = .ok (.memory ea k, s) ∧ Memory.storeEffect s.map ea = .writes c

/-- ROL of a RAM cell moves its byte and C by one place, and the operand stays that cell. -/
theorem exec_rol_cell_rolled (hk : mnemonicOf i = .rol) (ho : operandOf i = .mode am) (hc : OperandIsCell am ea k c s) :
    ∃ t, exec i s = .next t ∧ OperandIsCell am ea k c t ∧
      (Memory.read t.mem c, t.c) = rolled (Memory.read s.mem c, s.c) := by
  obtain ⟨hl, hs⟩ := hc
  have hm := State.read_of_cell (Memory.storeEffect_writes hs)
  have hx := exec_shift_memory (by simp [hk]) ho hl hm (State.store_of_writes hs)
  rw [hk] at hx
  exact ⟨_, hx, ⟨locate_congr (s := s) (isIndirect_of_rol hk ho) rfl rfl hl, hs⟩,
    Prod.ext (Memory.read_write_same ..) (c_of_shiftStatus (k := .rol) rfl)⟩

end

end Sys2Proof.Machine
end

section
/-! The obligations about shifts and rotates (spec/43_shift_rotate.md). -/

namespace Sys2Proof.Proofs

open Sys2Proof.Machine

/-- Settles O39: a shift of A, whose result and outgoing bit are those of its number. -/
theorem accumulatorShiftResults : Obligations.AccumulatorShiftResults := by
  intro i s hi ho
  have hx := exec_shift_accumulator hi ho s
  obtain ⟨hc, hzn, hv, hsame⟩ := exec_shift_flags hi hx rfl
  exact ⟨_, hx, shiftResult_toNat hi .., hc, hzn, hv, hsame, rfl⟩

/-- Settles O40: the byte stored is the shifted one, and its store is the instruction's. -/
theorem memoryShiftResults : Obligations.MemoryShiftResults := by
  intro i am s u v w ea k m r hi ho hl hm hr hw
  rw [← shiftResult_toNat hi, BitVec.toNat_inj] at hr
  subst hr
  have hx := exec_shift_memory hi ho hl hm hw
  obtain ⟨hc, hzn, hv, hsame⟩ := exec_shift_flags hi hx rfl
  exact ⟨_, hx, hc, hzn, hv, hsame, rfl⟩

/-- Settles O41: nine ROLs are nine places around a ring of nine bits. -/
theorem nineRotatesRestore : Obligations.NineRotatesRestore := by
  intro s
  refine ⟨?_, fun i am u ea k c hk ho hl hs => ?_⟩
  · obtain ⟨t, ht, -, hpart⟩ := repeated_next (good := fun _ => True)
      (fun s _ => (exec_rolAcc_rolled s).imp fun _ ⟨ht, hpart⟩ => ⟨ht, trivial, hpart⟩) 9 s trivial
    rw [iterate_rolled_nine] at hpart
    exact ⟨t, ht, congrArg Prod.fst hpart, congrArg Prod.snd hpart⟩
  · have hcell : OperandIsCell am ea k c s := ⟨locate_congr (isIndirect_of_rol hk ho) rfl rfl hl, hs⟩
    obtain ⟨t, ht, ⟨-, hs'⟩, hpart⟩ := repeated_next (fun _ => exec_rol_cell_rolled hk ho) 9 s hcell
    rw [iterate_rolled_nine] at hpart
    refine ⟨t, ht, ?_, congrArg Prod.snd hpart⟩
    rw [State.load_of_cell (Memory.storeEffect_writes hs'), State.load_of_cell (Memory.storeEffect_writes hs)]
    exact congrArg (Except.ok ∘ Prod.fst) hpart

end Sys2Proof.Proofs
end

section
/-! What a compare answers, and the flags it leaves as facts about the two numbers compared
(spec/44_compare.md R230 to R233). -/

namespace Sys2Proof.Machine

/-- N after a compare: the difference mod 256 has its top bit (R230). -/
theorem Flags.compareStatus_n_iff (p reg m : Byte) : get (compareStatus p reg m) nBit = true ↔
    128 ≤ ((reg.toNat : Int) - m.toNat) % 256 := by
  have hget : get (compareStatus p reg m) nBit = (reg - m).getLsbD 7 := get_compareStatus ..
  have hm := m.isLt
  rw [hget, getLsbD_seven, decide_eq_true_iff, BitVec.toNat_sub]
  omega

section
variable {i : Instr} {am : AddressingMode} {s t u v : State} {m reg : Byte}

/-- A compare whose operand loads, in full: the mnemonic names the register, and P alone depends on it (R231 to R233). -/
theorem exec_compare {l : Located}
    (hi : (mnemonicOf i, reg) ∈ [(Mnemonic.cmp, s.a), (Mnemonic.cpx, s.x), (Mnemonic.cpy, s.y)])
    (ho : operandOf i = .mode am) (hl : locate am s = .ok (l, u)) (hm : l.load u = .ok (m, v)) :
    exec i s = .next ((((s.setExternal v.external).setPC (nextPC i s)).setP
      (Flags.compareStatus s.p reg m)).addCycles (cycleCost s.timing i l.crossed 0)) := by
  simp only [List.mem_cons, List.not_mem_nil, or_false, Prod.mk.injEq] at hi
  obtain ⟨hk, rfl⟩ | ⟨hk, rfl⟩ | ⟨hk, rfl⟩ := hi
  · exact (exec_cmp s hk ho).trans (onOperand_eq_of_load hl hm)
  · exact (exec_cpx s hk ho).trans (onOperand_eq_of_load hl hm)
  · exact (exec_cpy s hk ho).trans (onOperand_eq_of_load hl hm)

/-- The flags of a state whose P a compare made from that of another (R230). -/
theorem flags_of_compareStatus (hp : t.p = Flags.compareStatus s.p reg m) :
    (t.c = true ↔ m.toNat ≤ reg.toNat) ∧ (t.z = true ↔ reg = m) ∧
      (t.n = true ↔ 128 ≤ ((reg.toNat : Int) - m.toNat) % 256) ∧ t.v = s.v ∧ Claims.sameControlBits s t := by
  have hget (j : Nat) := (congrArg (Flags.get · j) hp).trans (Flags.get_compareStatus ..)
  have hc : t.c = decide (m.toNat ≤ reg.toNat) := hget _
  have hz : t.z = (reg == m) := hget _
  refine ⟨by rw [hc, decide_eq_true_iff], by rw [hz, beq_iff_eq], ?_, hget _, hget _, hget _, hget _, hget _⟩
  rw [State.n, hp, Flags.compareStatus_n_iff]

end

end Sys2Proof.Machine
end

section
/-! The obligation about compares (spec/44_compare.md). -/

namespace Sys2Proof.Proofs

open Sys2Proof.Machine

/-- Settles O42: a compare writes P alone, from the register its mnemonic names and the operand. -/
theorem compareResults : Obligations.CompareResults := by
  intro i am s u v l m reg ho hl hm hi
  obtain ⟨hc, hz, hn, hv, hsame⟩ := flags_of_compareStatus (t := s.setP (Flags.compareStatus s.p reg m)) rfl
  exact ⟨_, exec_compare hi ho hl hm, hc, hz, hn, hv, hsame, rfl⟩

end Sys2Proof.Proofs
end

section
/-! What a branch answers by its mnemonic, its target as a sum of integers and its further cycles by the two pages
(spec/45_branch.md R240 to R248). -/

namespace Sys2Proof.Machine

/-- The target is the address after the branch and the signed offset, mod 65536 (R240). -/
theorem branchTarget_toNat (next : Word) (offset : Byte) :
    ((branchTarget next offset).toNat : Int) = (next.toNat + offset.toInt) % 65536 := by
  rw [branchTarget, BitVec.toNat_add, Int.natCast_emod, Int.natCast_add, Bits.sext16_toNat]
  exact Int.add_emod_emod ..

/-- The further cycles are due when the numbers of the two pages differ (R240). -/
theorem branchExtra_eq (timing : Config.Timing) (next target : Word) : branchExtra timing next target =
    timing.branchTaken + (if next.toNat / 256 = target.toNat / 256 then 0 else timing.branchCrossed) := by
  simp only [branchExtra, ← BitVec.toNat_inj, Bits.hiByte_toNat]

section
variable {i : Instr} {offset : Byte} {flag want : Bool} {s : State}

theorem lengthOf_of_relative (ho : operandOf i = .relative offset) : lengthOf i = 2 := by
  cases i <;> cases ho <;> rfl

/-- A branch in full: the mnemonic names the flag and the value it is taken on, and PC and CYCLES alone change (R240 to
R248). -/
theorem exec_branch (ho : operandOf i = .relative offset)
    (hi : (mnemonicOf i, flag, want) ∈
      [(Mnemonic.bcc, s.c, false), (Mnemonic.bcs, s.c, true), (Mnemonic.beq, s.z, true), (Mnemonic.bne, s.z, false),
       (Mnemonic.bmi, s.n, true), (Mnemonic.bpl, s.n, false), (Mnemonic.bvc, s.v, false), (Mnemonic.bvs, s.v, true)]) :
    exec i s =
      if flag = want then
        .next ((s.setPC (branchTarget (s.pc + 2#16) offset)).addCycles
          (cycleCost s.timing i false (branchExtra s.timing (s.pc + 2#16) (branchTarget (s.pc + 2#16) offset))))
      else .next ((s.setPC (s.pc + 2#16)).addCycles (cycleCost s.timing i false 0)) := by
  have hpc : nextPC i s = s.pc + 2#16 := by rw [nextPC, lengthOf_of_relative ho]
  rw [← hpc]
  simp only [List.mem_cons, List.not_mem_nil, or_false, Prod.mk.injEq] at hi
  obtain ⟨hk, rfl, rfl⟩ | ⟨hk, rfl, rfl⟩ | ⟨hk, rfl, rfl⟩ | ⟨hk, rfl, rfl⟩ | ⟨hk, rfl, rfl⟩ | ⟨hk, rfl, rfl⟩ |
    ⟨hk, rfl, rfl⟩ | ⟨hk, rfl, rfl⟩ := hi
  · exact (exec_bcc s hk ho).trans (opBranch_eq ..)
  · exact (exec_bcs s hk ho).trans (opBranch_eq ..)
  · exact (exec_beq s hk ho).trans (opBranch_eq ..)
  · exact (exec_bne s hk ho).trans (opBranch_eq ..)
  · exact (exec_bmi s hk ho).trans (opBranch_eq ..)
  · exact (exec_bpl s hk ho).trans (opBranch_eq ..)
  · exact (exec_bvc s hk ho).trans (opBranch_eq ..)
  · exact (exec_bvs s hk ho).trans (opBranch_eq ..)

end

end Sys2Proof.Machine
end

section
/-! The obligation about branches (spec/45_branch.md). -/

namespace Sys2Proof.Proofs

open Sys2Proof.Machine

/-- Settles O43: the target is the signed sum, and its page decides the further cycles. -/
theorem branchResults : Obligations.BranchResults := by
  intro i offset s flag want ho hi
  have hx := exec_branch ho hi
  refine ⟨fun htaken => ⟨_, branchTarget_toNat (s.pc + 2#16) offset, ?_⟩, fun hnot => ?_⟩
  · rw [hx, if_pos htaken, branchExtra_eq]
    rfl
  · rw [hx, if_neg hnot]
    rfl

end Sys2Proof.Proofs
end

section
/-! What the instructions of the stack and of the flags answer, written over the state before them, whose PC no access
sees (spec/46_system_stack_flags.md R260 to R273). -/

namespace Sys2Proof.Machine

/-! ### The stack under another PC -/

section
variable (s : State) (pc : Word)

theorem State.push_setPC (v : Byte) : (s.setPC pc).push v = (s.push v).map fun t => t.setPC pc :=
  bind_commutes ((inert_setPC pc).store s _ v) fun _ => rfl

theorem State.push16_setPC (w : Word) : (s.setPC pc).push16 w = (s.push16 w).map fun t => t.setPC pc :=
  bind_commutes (s.push_setPC pc _) fun t => t.push_setPC pc _

theorem State.pop_setPC : (s.setPC pc).pop = s.pop.map fun r => (r.1, r.2.setPC pc) :=
  bind_commutes ((inert_setPC pc).read s _) fun _ => rfl

theorem State.pop16_setPC : (s.setPC pc).pop16 = s.pop16.map fun r => (r.1, r.2.setPC pc) :=
  bind_commutes (s.pop_setPC pc) fun r => bind_commutes (r.2.pop_setPC pc) fun _ => rfl

/-- An entry loads PC, so it does not depend on PC before it. -/
theorem State.enter_setPC (ret vec : Word) (pushed : Byte) :
    (s.setPC pc).enter ret pushed vec = s.enter ret pushed vec := by
  have h : (s.setPC pc).enter ret pushed vec = (s.enter ret pushed vec).map id :=
    bind_commutes (s.push16_setPC pc ret) fun t =>
      bind_commutes (t.push_setPC pc pushed) fun u =>
        bind_commutes ((inert_setPC pc).readWord (u.setP (Flags.put u.p Flags.iBit true)) _ _) fun _ => rfl
  rwa [Except.map_id] at h

/-- A return loads PC, so it does not depend on PC before it. -/
theorem State.leave_setPC : (s.setPC pc).leave = s.leave := by
  have h : (s.setPC pc).leave = s.leave.map id :=
    bind_commutes (s.pop_setPC pc) fun r =>
      bind_commutes ((r.2.setP (Flags.pulled r.1)).pop16_setPC pc) fun _ => rfl
  rwa [Except.map_id] at h

end

section
variable {i : Instr} {s t : State} {f : Fault}

/-! ### The accesses of an entry and of a return, in order -/

theorem slot_zero (s : State) : Claims.slot s 0 = stackAddress s.sp :=
  congrArg stackAddress (BitVec.sub_zero s.sp)

/-- An entry in full, when the port answers all its accesses (R260, R310). -/
theorem State.enter_of_entryAccesses {ret vec : Word} {pushed lo hi : Byte} {x : State}
    (h : Claims.entryAccesses s ret pushed vec = .ok (lo, hi, x)) :
    s.enter ret pushed vec = .ok (((((s.setMem x.mem).setExternal x.external).setSP (s.sp - 3#8)).setP
      (Flags.put s.p Flags.iBit true)).setPC (Bits.join hi lo)) := by
  obtain ⟨t, h1, h⟩ := bind_ok.1 h
  obtain ⟨u, h2, h⟩ := bind_ok.1 h
  obtain ⟨v, h3, h⟩ := bind_ok.1 h
  obtain ⟨⟨_, w⟩, h4, h⟩ := bind_ok.1 h
  obtain ⟨⟨_, y⟩, h5, h⟩ := bind_ok.1 h
  cases h
  have hr := State.readWord_of_reads h4 h5
  refine (State.enter_of_accesses (slot_zero s ▸ h1) h2 h3 hr).trans ?_
  obtain ⟨m, e, rfl⟩ := (((State.store_accesses h1).trans (State.store_accesses h2)).trans
    (State.store_accesses h3)).trans (State.readWord_reads hr).accesses
  rfl

theorem State.enter_of_entryAccesses_error {ret vec : Word} {pushed : Byte}
    (h : Claims.entryAccesses s ret pushed vec = .error f) : s.enter ret pushed vec = .error f := by
  rw [State.enter_error, ← slot_zero]
  obtain h | ⟨t, h1, h⟩ := bind_error.1 h
  · exact .inl h
  refine .inr ⟨t, h1, ?_⟩
  obtain h | ⟨u, h2, h⟩ := bind_error.1 h
  · exact .inl h
  refine .inr ⟨u, h2, ?_⟩
  obtain h | ⟨v, h3, h⟩ := bind_error.1 h
  · exact .inl h
  refine .inr ⟨v, h3, State.readWord_error.2 ?_⟩
  obtain h | ⟨⟨lo, w⟩, h4, h⟩ := bind_error.1 h
  · exact .inl h
  obtain h | ⟨_, -, h⟩ := bind_error.1 h
  · exact .inr ⟨lo, w, h4, h⟩
  · cases h

/-- A return in full, when the port answers its three pops (R261). -/
theorem State.leave_of_returnAccesses {p lo hi : Byte} {v : State}
    (h : Claims.returnAccesses s = .ok (p, lo, hi, v)) :
    s.leave = .ok ((((s.setExternal v.external).setSP (s.sp + 3#8)).setP (Flags.pulled p)).setPC (Bits.join hi lo)) := by
  obtain ⟨⟨_, t⟩, h1, h⟩ := bind_ok.1 h
  obtain ⟨⟨_, u⟩, h2, h⟩ := bind_ok.1 h
  obtain ⟨⟨_, w⟩, h3, h⟩ := bind_ok.1 h
  cases h
  refine (State.leave_of_reads h1 h2 h3).trans ?_
  obtain ⟨e, rfl⟩ := ((State.read_reads h1).trans (State.read_reads h2)).trans (State.read_reads h3)
  rfl

theorem State.leave_of_returnAccesses_error (h : Claims.returnAccesses s = .error f) : s.leave = .error f := by
  rw [State.leave_error]
  obtain h | ⟨⟨p, t⟩, h1, h⟩ := bind_error.1 h
  · exact .inl h
  refine .inr ⟨p, t, h1, ?_⟩
  obtain h | ⟨⟨lo, u⟩, h2, h⟩ := bind_error.1 h
  · exact .inl h
  obtain h | ⟨_, -, h⟩ := bind_error.1 h
  · exact .inr ⟨lo, u, h2, h⟩
  · cases h

/-! ### Which operation each instruction is -/

theorem exec_brk (s : State) :
    exec .brk s = onStack .brk (fun t => t.enter (s.pc + 2#16) (Flags.pushedByBreak t.p) irqVector) s := rfl

theorem exec_rti (s : State) : exec .rti s = onStack .rti State.leave s := rfl

theorem exec_jsr (s : State) (address : Word) :
    exec (.jsr address) s = onStack (.jsr address) (fun t => do
      let u ← t.push16 (s.pc + 2#16)
      return u.setPC address) s := rfl

theorem exec_pha (s : State) : exec .pha s = onStack .pha (fun t => t.push t.a) s := rfl

theorem exec_php (s : State) : exec .php s = onStack .php (fun t => t.push (Flags.pushedByBreak t.p)) s := rfl

/-- A pop, and then a change of the registers with the popped byte. -/
def State.popThen (g : Byte → State → State) (s : State) : Except Fault State := do
  let (v, t) ← s.pop
  return g v t

theorem exec_pla (s : State) : exec .pla s = onStack .pla (State.popThen fun v t => (t.setA v).setZN v) s := rfl

theorem exec_plp (s : State) : exec .plp s = onStack .plp (State.popThen fun v t => t.setP (Flags.pulled v)) s := rfl

theorem exec_rts (s : State) :
    exec .rts s = onStack .rts (fun t => do
      let (w, u) ← t.pop16
      return u.setPC (w + 1#16)) s := rfl

/-! ### Instructions of one byte -/

/-- An instruction of one byte on the stack or on a flag costs its base cycles. -/
theorem onStack_of_length_one {g : State → Except Fault State} {u : State} (hi : lengthOf i = 1)
    (h : g (s.setPC (s.pc + 1#16)) = .ok u) : onStack i g s = .next (u.addCycles (costOf s.timing i).base) :=
  onStack_of_ok (by rwa [nextPC, hi])

theorem onStack_fault_of_length_one {g : State → Except Fault State} (hi : lengthOf i = 1)
    (h : g (s.setPC (s.pc + 1#16)) = .error f) : onStack i g s = .fault f :=
  onStack_of_error (by rwa [nextPC, hi])

/-- An instruction that pushes one byte, when the port takes it (R262, R263). -/
theorem onStack_push_of_store {b : State → Byte} (hi : lengthOf i = 1) (hb : ∀ pc, b (s.setPC pc) = b s)
    (h : s.store (Claims.slot s 0) (b s) = .ok t) :
    onStack i (fun u => u.push (b u)) s = .next (((((s.setMem t.mem).setExternal t.external).setSP
      (s.sp - 1#8)).setPC (s.pc + 1#16)).addCycles (costOf s.timing i).base) := by
  refine onStack_of_length_one hi ?_
  rw [hb, State.push_setPC, State.push_of_store (slot_zero s ▸ h)]
  obtain ⟨m, e, rfl⟩ := State.store_accesses h
  rfl

theorem onStack_push_fault {b : State → Byte} (hi : lengthOf i = 1) (hb : ∀ pc, b (s.setPC pc) = b s)
    (h : s.store (Claims.slot s 0) (b s) = .error f) : onStack i (fun u => u.push (b u)) s = .fault f := by
  refine onStack_fault_of_length_one hi ?_
  rw [hb, State.push_setPC, State.push_error.2 (slot_zero s ▸ h)]
  rfl

/-- An instruction that pops one byte, when the pop completes. -/
theorem onStack_of_pop {b : Byte} {g : Byte → State → State} (hi : lengthOf i = 1)
    (h : s.pop = .ok (b, t)) :
    onStack i (State.popThen g) s =
      .next ((g b (t.setPC (s.pc + 1#16))).addCycles (costOf s.timing i).base) := by
  refine onStack_of_length_one hi ?_
  rw [State.popThen, State.pop_setPC, h]
  rfl

/-- An instruction that pops one byte, when the port answers it (R264, R265). -/
theorem onStack_pop_of_read {b : Byte} {g : Byte → State → State} (hi : lengthOf i = 1)
    (h : s.read (stackAddress (s.sp + 1#8)) = .ok (b, t)) :
    onStack i (State.popThen g) s =
      .next ((g b (((s.setExternal t.external).setSP (s.sp + 1#8)).setPC (s.pc + 1#16))).addCycles
        (costOf s.timing i).base) := by
  refine (onStack_of_pop hi (State.pop_of_read h)).trans ?_
  obtain ⟨e, rfl⟩ := State.read_reads h
  rfl

theorem onStack_pop_fault {g : Byte → State → State} (hi : lengthOf i = 1)
    (h : s.read (stackAddress (s.sp + 1#8)) = .error f) :
    onStack i (State.popThen g) s = .fault f := by
  refine onStack_fault_of_length_one hi ?_
  rw [State.popThen, State.pop_setPC, State.pop_error.2 h]
  rfl

theorem exec_brk_of_enter (h : s.enter (s.pc + 2#16) (Flags.pushedByBreak s.p) irqVector = .ok t) :
    exec .brk s = .next (t.addCycles (costOf s.timing .brk).base) :=
  (exec_brk s).trans (onStack_of_length_one rfl ((s.enter_setPC ..).trans h))

theorem exec_rti_of_leave (h : s.leave = .ok t) : exec .rti s = .next (t.addCycles (costOf s.timing .rti).base) :=
  (exec_rti s).trans (onStack_of_length_one rfl ((s.leave_setPC _).trans h))

theorem exec_rts_of_pop16 {w : Word} (h : s.pop16 = .ok (w, t)) :
    exec .rts s = .next ((t.setPC (w + 1#16)).addCycles (costOf s.timing .rts).base) :=
  (exec_rts s).trans (onStack_of_length_one rfl (by rw [State.pop16_setPC, h]; rfl))

end

end Sys2Proof.Machine
end

section
/-! What a stack page of RAM holds after a push, a call or an entry, and that the matching return takes it back
(spec/46_system_stack_flags.md R260 to R265, spec/47_jump_subroutine.md R292, R293, spec/60_exceptions.md R310, R312). -/

namespace Sys2Proof.Machine

/-! ### The status byte -/

/-- Where bits 4 and 5 are as they must be, what PLP and RTI fix is so already (R31, R32). -/
theorem Flags.pulled_of_statusFixed {p : Byte} (h : Safety.statusFixed p) : pulled p = p := by
  obtain ⟨hu, hb⟩ := h
  refine ext fun j => ?_
  rw [get_pulled]
  split
  case isTrue hj => rw [hj, hu]
  case isFalse =>
    split
    case isTrue hj => rw [hj, hb]
    case isFalse => rfl

/-- What BRK and PHP set in the pushed copy, a pull drops (R260, R263). -/
theorem Flags.pulled_pushedByBreak (p : Byte) : pulled (pushedByBreak p) = pulled p := by
  simp [pulled, pushedByBreak, BitVec.and_or_distrib_right]

/-- What interrupt entry sets and clears in the pushed copy, a pull drops (R310). -/
theorem Flags.pulled_pushedByInterrupt (p : Byte) : pulled (pushedByInterrupt p) = pulled p := by
  simp [pulled, pushedByInterrupt, BitVec.and_or_distrib_right, BitVec.and_assoc]

/-! ### The bytes of a stack page of RAM -/

/-- The byte that a stack page of RAM holds for a value of SP. -/
def State.stackByte (s : State) (sp : Byte) : Byte := Memory.read s.mem (stackAddress sp).toNat

section
variable {s t : State} {b : Byte} {w : Word}

theorem State.read_of_stackRam (h : Claims.stackRam s) (sp : Byte) :
    s.read (stackAddress sp) = .ok (s.stackByte sp, s) :=
  State.read_of_cell (Memory.storeEffect_writes (h sp))

theorem State.Accesses.stackRam (ha : s.Accesses t) (h : Claims.stackRam s) : Claims.stackRam t := by
  obtain ⟨m, e, rfl⟩ := ha
  exact h

theorem State.stackByte_of_store {sp : Byte} (h : Claims.stackRam s) (hs : s.store (stackAddress sp) b = .ok t)
    (sp' : Byte) : t.stackByte sp' = if sp' = sp then b else s.stackByte sp' := by
  cases hs.symm.trans (State.store_of_writes (h sp))
  have hcell : (stackAddress sp').toNat = (stackAddress sp).toNat ↔ sp' = sp := by
    rw [stackAddress_toNat, stackAddress_toNat, Nat.add_left_cancel_iff, BitVec.toNat_inj]
  simp only [State.stackByte, State.setMem_mem, Memory.read_write, hcell]

/-! ### What is pushed -/

/-- `Push16` leaves the high byte at SP and the low byte below it (R138). -/
theorem State.stackByte_of_push16 (h : Claims.stackRam s) (hp : s.push16 w = .ok t) :
    t.stackByte s.sp = Bits.hiByte w ∧ t.stackByte (s.sp - 1#8) = Bits.loByte w := by
  obtain ⟨u, v, hu, hv, rfl⟩ := State.push16_ok hp
  have hbyte (sp : Byte) := (State.stackByte_of_store ((State.store_accesses hu).stackRam h) hv sp).trans
    (congrArg (ite _ _) (State.stackByte_of_store h hu sp))
  exact ⟨(hbyte _).trans (by rw [if_neg (by bv_omega), if_pos rfl]), (hbyte _).trans (if_pos rfl)⟩

/-- An entry leaves the return address, and the status byte below it (R260, R310). -/
theorem State.stackByte_of_enter {ret vec : Word} {pushed : Byte} (h : Claims.stackRam s)
    (he : s.enter ret pushed vec = .ok t) :
    t.stackByte s.sp = Bits.hiByte ret ∧ t.stackByte (s.sp - 1#8) = Bits.loByte ret ∧
      t.stackByte (s.sp - 2#8) = pushed := by
  obtain ⟨u, v, x, y, target, hu, hv, hx, hy, rfl⟩ := State.enter_ok he
  obtain ⟨hhi, hlo⟩ := State.stackByte_of_push16 h (State.push16_of_stores hu hv)
  have hbyte := State.stackByte_of_store (((State.store_accesses hu).trans (State.store_accesses hv)).stackRam h) hx
  obtain ⟨e, rfl⟩ := State.readWord_reads hy
  exact ⟨(hbyte _).trans ((if_neg (by bv_omega)).trans hhi), (hbyte _).trans ((if_neg (by bv_omega)).trans hlo),
    (hbyte _).trans (if_pos rfl)⟩

/-! ### What is taken back -/

/-- `Pop16` after `Push16` reads the pushed word (R138). -/
theorem State.pop16_of_push16 (h : Claims.stackRam s) (hp : s.push16 w = .ok t) :
    t.pop16 = .ok (w, t.setSP s.sp) := by
  obtain ⟨hhi, hlo⟩ := State.stackByte_of_push16 h hp
  obtain ⟨m, e, ht⟩ := State.push16_frame hp
  have hram : Claims.stackRam t := ht ▸ h
  have hsp2 : t.sp + 2#8 = s.sp := by rw [ht]; exact BitVec.sub_add_cancel ..
  have hsp1 : t.sp + 1#8 = s.sp - 1#8 := by rw [ht]; bv_omega
  rw [State.pop16_of_reads (t.read_of_stackRam hram _) (t.read_of_stackRam hram _), hsp2, hsp1, hhi, hlo,
    Bits.join_bytes]

/-- A return after an entry reads the status and the address that the entry pushed (R261, R312). -/
theorem State.leave_of_enter {ret vec : Word} {pushed : Byte} (h : Claims.stackRam s)
    (he : s.enter ret pushed vec = .ok t) :
    t.leave = .ok (((t.setSP s.sp).setP (Flags.pulled pushed)).setPC ret) := by
  obtain ⟨hhi, hlo, hstatus⟩ := State.stackByte_of_enter h he
  obtain ⟨m, e, target, ht⟩ := State.enter_frame he
  have hram : Claims.stackRam t := ht ▸ h
  have hsp3 : t.sp + 3#8 = s.sp := by rw [ht]; exact BitVec.sub_add_cancel ..
  have hsp2 : t.sp + 2#8 = s.sp - 1#8 := by rw [ht]; bv_omega
  have hsp1 : t.sp + 1#8 = s.sp - 2#8 := by rw [ht]; bv_omega
  rw [State.leave_of_reads (t.read_of_stackRam hram _) (t.read_of_stackRam hram _) (t.read_of_stackRam hram _), hsp3,
    hsp2, hsp1, hhi, hlo, hstatus, Bits.join_bytes]

/-! ### The instruction that takes back, after the one that pushed

The cycles of the first instruction are a change of the clock alone, which no pop sees. -/

/-- RTI after an entry: SP and the return address as they were, and P from the byte pushed (R312). -/
theorem exec_rti_of_enter {ret vec : Word} {pushed : Byte} (h : Claims.stackRam s) (hp : Flags.pulled pushed = s.p)
    (he : s.enter ret pushed vec = .ok t) (n : Nat) :
    ∃ u, exec .rti (t.addCycles n) = .next u ∧ u.pc = ret ∧ u.p = s.p ∧ u.sp = s.sp ∧ u.a = s.a ∧ u.x = s.x ∧
      u.y = s.y := by
  have hleave := (t.leave_withClock t.timing (t.cycles + n)).trans
    (congrArg (Except.map _) (State.leave_of_enter h he))
  refine ⟨_, exec_rti_of_leave hleave, rfl, hp, rfl, ?_⟩
  obtain ⟨m, e, target, rfl⟩ := State.enter_frame he
  exact ⟨rfl, rfl, rfl⟩

/-- RTS after a call: SP as it was, and PC one above the word pushed (R292, R293). -/
theorem exec_rts_of_push16 (h : Claims.stackRam s) (hp : s.push16 w = .ok t) (pc : Word) (n : Nat) :
    ∃ u, exec .rts ((t.setPC pc).addCycles n) = .next u ∧ u.pc = w + 1#16 ∧ u.sp = s.sp ∧ u.a = s.a ∧ u.x = s.x ∧
      u.y = s.y ∧ u.p = s.p := by
  have hpop := ((t.setPC pc).pop16_withClock t.timing (t.cycles + n)).trans
    (congrArg (Except.map _) ((t.pop16_setPC pc).trans (congrArg (Except.map _) (State.pop16_of_push16 h hp))))
  refine ⟨_, exec_rts_of_pop16 hpop, rfl, rfl, ?_⟩
  obtain ⟨m, e, rfl⟩ := State.push16_frame hp
  exact ⟨rfl, rfl, rfl, rfl⟩

/-- An instruction that pops one byte, after one that pushed it: the byte is the one pushed and SP as it was. -/
theorem onStack_pop_of_push {i j : Instr} {b : State → Byte} (hj : lengthOf j = 1) (h : Claims.stackRam s)
    (hb : ∀ pc, b (s.setPC pc) = b s) (hx : onStack i (fun u => u.push (b u)) s = .next t) :
    ∃ r n, r.sp = s.sp ∧ ∀ g, onStack j (State.popThen g) t = .next ((g (b s) r).addCycles n) := by
  obtain ⟨u, hu, rfl⟩ := onStack_next hx
  rw [hb] at hu
  have hpop := (u.pop_withClock u.timing (u.cycles + cycleCost s.timing i false 0)).trans
    (congrArg (Except.map _) (State.pop_of_push (s := s.setPC (nextPC i s)) h hu))
  refine ⟨_, _, ?_, fun g => onStack_of_pop hj hpop⟩
  rfl

end

end Sys2Proof.Machine
end

section
/-! The obligations about system, stack and flag instructions (spec/46_system_stack_flags.md). -/

namespace Sys2Proof.Proofs

open Sys2Proof.Machine

/-- Settles O44: an entry with the address after BRK's second byte, whose accesses do not see PC. -/
theorem brkEffect : Obligations.BrkEffect := fun s =>
  ⟨fun _ _ _ h => exec_brk_of_enter (State.enter_of_entryAccesses h), fun _ h =>
    (exec_brk s).trans (onStack_fault_of_length_one rfl
      ((s.enter_setPC ..).trans (State.enter_of_entryAccesses_error h)))⟩

/-- Settles O45: a return, whose accesses do not see PC. -/
theorem rtiEffect : Obligations.RtiEffect := fun s =>
  ⟨fun _ _ _ _ h => exec_rti_of_leave (State.leave_of_returnAccesses h), fun _ h =>
    (exec_rti s).trans (onStack_fault_of_length_one rfl
      ((s.leave_setPC _).trans (State.leave_of_returnAccesses_error h)))⟩

/-- Settles O46: RTI takes back what the entry left on the stack, and the pushed copies of P differ from P only in the
bits that a pull fixes. -/
theorem rtiReturnsFromEntry : Obligations.RtiReturnsFromEntry := by
  intro s t hram hfixed
  refine ⟨fun h => ?_, fun k hfault hstall hpoll h => ?_⟩
  · obtain ⟨u, hu, rfl⟩ := onStack_next ((exec_brk s).symm.trans h)
    rw [State.enter_setPC] at hu
    exact exec_rti_of_enter hram ((Flags.pulled_pushedByBreak _).trans (Flags.pulled_of_statusFixed hfixed)) hu _
  · rw [step_of_poll hfault hstall hpoll] at h
    obtain ⟨u, hu, ht⟩ := bind_ok.1 (finish_next h)
    cases ht
    exact exec_rti_of_enter (s := s.setInterrupt .none) hram
      ((Flags.pulled_pushedByInterrupt _).trans (Flags.pulled_of_statusFixed hfixed)) hu _

/-- Settles O48: a push is its store and a pop its read, both where SP points before PC is advanced. -/
theorem stackInstructionResults : Obligations.StackInstructionResults := by
  intro s
  refine ⟨fun t h => ?_, fun f h => ?_, fun t h => ?_, fun f h => ?_, fun v t h => ⟨?_, ?_⟩, fun f h => ⟨?_, ?_⟩⟩
  · exact (exec_pha s).trans (onStack_push_of_store rfl (fun _ => rfl) h)
  · exact (exec_pha s).trans (onStack_push_fault rfl (fun _ => rfl) h)
  · exact (exec_php s).trans (onStack_push_of_store (b := fun t => Flags.pushedByBreak t.p) rfl (fun _ => rfl) h)
  · exact (exec_php s).trans (onStack_push_fault rfl (fun _ => rfl) h)
  · exact (exec_pla s).trans (onStack_pop_of_read rfl h)
  · exact (exec_plp s).trans (onStack_pop_of_read rfl h)
  · exact (exec_pla s).trans (onStack_pop_fault rfl h)
  · exact (exec_plp s).trans (onStack_pop_fault rfl h)

/-- Settles O59: each pull reads the bytes that the push left where SP pointed. -/
theorem stackRoundTrips : Obligations.StackRoundTrips := by
  intro s t hram
  refine ⟨fun h => ?_, fun hfixed h => ?_, fun w h => ?_⟩
  · obtain ⟨r, n, hsp, hu⟩ :=
      onStack_pop_of_push (j := .pla) rfl hram (fun _ => rfl) ((exec_pha s).symm.trans h)
    exact ⟨_, (exec_pla t).trans (hu _), rfl, hsp⟩
  · obtain ⟨r, n, hsp, hu⟩ :=
      onStack_pop_of_push (j := .plp) (b := fun u => Flags.pushedByBreak u.p) rfl hram (fun _ => rfl)
        ((exec_php s).symm.trans h)
    exact ⟨_, (exec_plp t).trans (hu _), (Flags.pulled_pushedByBreak _).trans (Flags.pulled_of_statusFixed hfixed), hsp⟩
  · obtain ⟨u, hu, rfl⟩ := onStack_next ((exec_jsr s w).symm.trans h)
    obtain ⟨v, hv, hu⟩ := bind_ok.1 hu
    cases hu
    obtain ⟨u, hu, hpc, hregs⟩ := exec_rts_of_push16 (s := s.setPC (nextPC (.jsr w) s)) hram hv w _
    exact ⟨u, hu, hpc.trans (by rw [BitVec.add_assoc]; rfl), hregs⟩

/-- Settles O49: each flag instruction writes its bit by number, and NOP is an operation on registers alone. -/
theorem flagInstructionResults : Obligations.FlagInstructionResults := fun s =>
  ⟨show execClc s = _ from onStack_setBit .clc false (by decide) s,
    show execSec s = _ from onStack_setBit .sec true (by decide) s,
    show execCli s = _ from onStack_setBit .cli false (by decide) s,
    show execSei s = _ from onStack_setBit .sei true (by decide) s,
    show execCld s = _ from onStack_setBit .cld false (by decide) s,
    show execSed s = _ from onStack_setBit .sed true (by decide) s,
    show execClv s = _ from onStack_setBit .clv false (by decide) s,
    show execNop s = _ from onRegisters_of_length_one rfl⟩

end Sys2Proof.Proofs
end

section
/-! What the jumps, the call and the return answer, written over the state before them, whose PC no access sees, and the
address of the second byte of a JMP pointer as a number (spec/47_jump_subroutine.md R290 to R293). -/

namespace Sys2Proof.Machine

/-! ### The second byte of a pointer -/

/-- The two bytes of a word are what the two masks keep (R10). -/
theorem Bits.join_hiByte_loByte (v w : Word) :
    join (hiByte v) (loByte w) = (v &&& 0xFF00#16) ||| (w &&& 0x00FF#16) := by
  have hmask : ∀ j < 16,
      (0xFF00#16).getLsbD j = decide (8 ≤ j) ∧ (0x00FF#16).getLsbD j = decide (j < 8) := by decide
  refine BitVec.eq_of_getLsbD_eq fun j hj => ?_
  obtain ⟨hhi, hlo⟩ := hmask j hj
  rw [BitVec.getLsbD_or, BitVec.getLsbD_and, BitVec.getLsbD_and, hhi, hlo, join, BitVec.getLsbD_append]
  by_cases h : j < 8
  · simp [loByte, h]
  · have h8 : 8 ≤ j := Nat.le_of_not_lt h
    have hlt : j - 8 < 8 := by omega
    simp [hiByte, h, h8, hlt, Nat.add_sub_of_le h8]

/-- The page of the pointer stays, and its low byte wraps (R291). -/
theorem nextInPage_eq_ofNat (w : Word) :
    nextInPage w = BitVec.ofNat 16 (w.toNat / 256 * 256 + (w.toNat % 256 + 1) % 256) := by
  have hlo : (Bits.loByte (w + 1#16)).toNat = (w.toNat % 256 + 1) % 256 := by
    rw [Bits.loByte_toNat, BitVec.toNat_add, BitVec.toNat_ofNat]
    omega
  rw [nextInPage, ← Bits.join_hiByte_loByte, Bits.join_eq_ofNat, Bits.hiByte_toNat, hlo]

section
variable {s t : State} {f : Fault} {w : Word}

/-! ### JMP -/

theorem State.readInPage_setPC (s : State) (pc w : Word) :
    (s.setPC pc).readInPage w = (s.readInPage w).map fun r => (r.1, r.2.setPC pc) :=
  (inert_setPC pc).readWord s _ _

theorem exec_jmpAbs (s : State) (w : Word) : exec (.jmpAbs w) s = onRegisters (.jmpAbs w) (fun t => t.setPC w) s := rfl

theorem exec_jmpInd (s : State) (w : Word) :
    exec (.jmpInd w) s = onStack (.jmpInd w) (fun t => do
      let (target, u) ← t.readInPage w
      return u.setPC target) s := rfl

theorem exec_jmpInd_of_readInPage {target : Word} (h : s.readInPage w = .ok (target, t)) :
    exec (.jmpInd w) s = .next ((t.setPC target).addCycles (costOf s.timing (.jmpInd w)).base) :=
  (exec_jmpInd s w).trans (onStack_of_ok (by rw [State.readInPage_setPC, h]; rfl))

theorem exec_jmpInd_fault (h : s.readInPage w = .error f) : exec (.jmpInd w) s = .fault f :=
  (exec_jmpInd s w).trans (onStack_of_error (by rw [State.readInPage_setPC, h]; rfl))

/-! ### JSR and RTS -/

theorem exec_jsr_of_push16 (h : s.push16 (s.pc + 2#16) = .ok t) :
    exec (.jsr w) s = .next ((t.setPC w).addCycles (costOf s.timing (.jsr w)).base) :=
  (exec_jsr s w).trans (onStack_of_ok (by rw [State.push16_setPC, h]; rfl))

theorem exec_jsr_fault (h : s.push16 (s.pc + 2#16) = .error f) : exec (.jsr w) s = .fault f :=
  (exec_jsr s w).trans (onStack_of_error (by rw [State.push16_setPC, h]; rfl))

theorem exec_rts_fault (h : s.pop16 = .error f) : exec .rts s = .fault f :=
  (exec_rts s).trans (onStack_of_error (by rw [State.pop16_setPC, h]; rfl))

end

end Sys2Proof.Machine
end

section
/-! The obligations about jumps and subroutines (spec/47_jump_subroutine.md). -/

namespace Sys2Proof.Proofs

open Sys2Proof.Machine

/-- Settles O50: JMP indirect is two reads, the second in the pointer's own page, which leave all but the port's record
of them as it was. -/
theorem jumpResults : Obligations.JumpResults := by
  intro s w
  rw [← nextInPage_eq_ofNat]
  refine ⟨(exec_jmpAbs s w).trans (onRegisters_eq _), fun f h => exec_jmpInd_fault (State.readWord_error.2 (.inl h)),
    fun lo t h => ⟨fun hi u h' => ?_, fun f h' =>
      exec_jmpInd_fault (State.readWord_error.2 (.inr ⟨lo, t, h, h'⟩))⟩⟩
  refine (exec_jmpInd_of_readInPage (State.readWord_of_reads h h')).trans ?_
  obtain ⟨e, rfl⟩ := (State.read_reads h).trans (State.read_reads h')
  rw [Bits.join_eq_ofNat]
  rfl

/-- Settles O51: a call is two stores and a return two reads, all where SP points before PC is advanced. -/
theorem callResults : Obligations.CallResults := by
  intro s w
  rw [slot_zero]
  refine ⟨fun f h => exec_jsr_fault (State.push16_error.2 (.inl h)),
    fun t h => ⟨fun f h' => exec_jsr_fault (State.push16_error.2 (.inr ⟨t, h, h'⟩)), fun u h' => ?_⟩,
    fun f h => exec_rts_fault (State.pop16_error.2 (.inl h)),
    fun lo t h => ⟨fun f h' => exec_rts_fault (State.pop16_error.2 (.inr ⟨lo, t, h, h'⟩)), fun hi u h' => ?_⟩⟩
  · refine (exec_jsr_of_push16 (State.push16_of_stores h h')).trans ?_
    obtain ⟨m, e, rfl⟩ := (State.store_accesses h).trans (State.store_accesses h')
    rfl
  · refine (exec_rts_of_pop16 (State.pop16_of_reads h h')).trans ?_
    obtain ⟨e, rfl⟩ := (State.read_reads h).trans (State.read_reads h')
    rfl

end Sys2Proof.Proofs
end

section
/-! Where the fault of an access, of an operation built from accesses and of an instruction comes from
(spec/20_memory.md R69, spec/60_exceptions.md R302 to R305, R310). -/

namespace Sys2Proof.Machine

/-- A computation whose only faults are refused accesses of the port with this map. -/
def FaultsAtPort {α : Type} (m : Config.MemMap) (x : Except Fault α) : Prop :=
  ∀ f, x = .error f → Claims.portFault m f

section
variable {α β : Type} {m : Config.MemMap}

theorem FaultsAtPort.ok (a : α) : FaultsAtPort m (.ok a) := nofun

/-- A sequence faults where its first part does, or where its second does. -/
theorem FaultsAtPort.bind {x : Except Fault α} {k : α → Except Fault β} (hx : FaultsAtPort m x)
    (hk : ∀ a, x = .ok a → FaultsAtPort m (k a)) : FaultsAtPort m (x >>= k) := by
  intro f h
  obtain h | ⟨a, ha, h⟩ := bind_error.1 h
  · exact hx f h
  · exact hk a ha f h

end

section
variable {m : Config.MemMap} {s t : State} (hm : s.map = m)
include hm

/-! ### Accesses -/

theorem State.load_faultsAtPort (a : Word) : FaultsAtPort m (s.load a) := by
  intro f h
  obtain ⟨rfl, hp⟩ := State.load_error h
  exact ⟨a, .inl ⟨rfl, hm ▸ hp.imp_right And.left⟩⟩

theorem State.read_faultsAtPort (a : Word) : FaultsAtPort m (s.read a) := fun f h =>
  State.load_faultsAtPort hm a f (State.read_error.1 h)

theorem State.store_faultsAtPort (a : Word) (v : Byte) : FaultsAtPort m (s.store a v) := by
  intro f h
  obtain ⟨rfl, hp⟩ := State.store_error h
  exact ⟨a, .inr ⟨rfl, hm ▸ hp.imp_right And.left⟩⟩

theorem State.Reads.map_eq (h : s.Reads t) : t.map = m := h.sameMemory.map.trans hm

theorem State.readWord_faultsAtPort (low high : Word) : FaultsAtPort m (s.readWord low high) :=
  (State.read_faultsAtPort hm low).bind fun _ h =>
    (State.read_faultsAtPort ((State.read_reads h).map_eq hm) high).bind fun _ _ => .ok _

/-! ### The stack, entry and return -/

theorem State.push_faultsAtPort (v : Byte) : FaultsAtPort m (s.push v) :=
  (State.store_faultsAtPort hm _ v).bind fun _ _ => .ok _

theorem State.pop_faultsAtPort : FaultsAtPort m s.pop :=
  (State.read_faultsAtPort hm _).bind fun _ _ => .ok _

theorem State.push16_faultsAtPort (w : Word) : FaultsAtPort m (s.push16 w) :=
  (State.push_faultsAtPort hm _).bind fun t h =>
    State.push_faultsAtPort (s := t) (by obtain ⟨_, _, rfl⟩ := State.push_frame h; exact hm) _

theorem State.pop16_faultsAtPort : FaultsAtPort m s.pop16 :=
  (State.pop_faultsAtPort hm).bind fun r h =>
    (State.pop_faultsAtPort (s := r.2) (by obtain ⟨_, hr⟩ := State.pop_frame h; rw [hr]; exact hm)).bind
      fun _ _ => .ok _

/-- BRK and interrupt entry fault where a push or a read of the vector is refused (R260, R310). -/
theorem State.enter_faultsAtPort (ret : Word) (pushed : Byte) (vec : Word) :
    FaultsAtPort m (s.enter ret pushed vec) := by
  refine (State.push16_faultsAtPort hm ret).bind fun t ht => ?_
  have htm : t.map = m := by obtain ⟨_, _, rfl⟩ := State.push16_frame ht; exact hm
  refine (State.push_faultsAtPort htm pushed).bind fun u hu => ?_
  have hum : u.map = m := by obtain ⟨_, _, rfl⟩ := State.push_frame hu; exact htm
  exact (State.readWord_faultsAtPort (s := u.setP (Flags.put u.p Flags.iBit true)) hum _ _).bind fun _ _ => .ok _

/-- RTI faults where one of its pops is refused (R261). -/
theorem State.leave_faultsAtPort : FaultsAtPort m s.leave := by
  refine (State.pop_faultsAtPort hm).bind fun r h => ?_
  obtain ⟨_, hr⟩ := State.pop_frame h
  exact (State.pop16_faultsAtPort (s := r.2.setP (Flags.pulled r.1)) (by rw [hr]; exact hm)).bind fun _ _ => .ok _

theorem State.interruptEntry_faultsAtPort (k : InterruptKind) : FaultsAtPort m (s.interruptEntry k) :=
  (State.enter_faultsAtPort (s := s.setInterrupt .none) hm _ _ _).bind fun _ _ => .ok _

theorem Action.faultsAtPort {i : Instr} {f : State → State → Except Fault State} (hf : Action i f) (r : State) :
    FaultsAtPort m (f r s) := by
  cases hf with
  | jmpInd pointer => exact (State.readWord_faultsAtPort hm _ _).bind fun _ _ => .ok _
  | jsr address => exact (State.push16_faultsAtPort hm _).bind fun _ _ => .ok _
  | rts => exact (State.pop16_faultsAtPort hm).bind fun _ _ => .ok _
  | pha | php => exact State.push_faultsAtPort hm _
  | pla | plp => exact (State.pop_faultsAtPort hm).bind fun _ _ => .ok _
  | brk => exact State.enter_faultsAtPort hm _ _ _
  | rti => exact State.leave_faultsAtPort hm

/-! ### Operands -/

theorem locate_faultsAtPort (am : AddressingMode) : FaultsAtPort m (locate am s) := by
  intro f h
  obtain ⟨p, hp⟩ := locate_error h
  exact State.readWord_faultsAtPort hm _ _ f hp

theorem Located.load_faultsAtPort (l : Located) : FaultsAtPort m (l.load s) := by
  intro f h
  obtain ⟨ea, _, -, hl⟩ := Located.load_error h
  exact State.load_faultsAtPort hm ea f hl

/-- Only a literal cannot be saved for another reason than the port's (R303). -/
theorem Located.save_faultsAtPort {l : Located} (hl : ∀ w, l ≠ .literal w) (v : Byte) :
    FaultsAtPort m (l.save v s) := by
  intro f h
  obtain ⟨⟨w, hw⟩, -⟩ | ⟨ea, _, -, hs⟩ := Located.save_error h
  · exact absurd hw (hl w)
  · exact State.store_faultsAtPort hm ea v f hs

end

/-! ### Instructions -/

section
variable {i : Instr} {am : AddressingMode} {s : State} {f : Fault}

/-- An instruction's faults are those of its operation, which runs on the same map. -/
theorem execute_portFault {op : State → Except Fault (State × Nat)}
    (hop : FaultsAtPort s.map (op (s.setPC (nextPC i s)))) (h : execute i op s = .fault f) :
    Claims.portFault s.map f :=
  hop f (execute_fault h)

theorem onOperand_portFault {g : Byte → State → State} (h : onOperand i am g s = .fault f) :
    Claims.portFault s.map f := by
  refine execute_portFault ?_ h
  refine (locate_faultsAtPort rfl am).bind fun r hl => ?_
  exact (Located.load_faultsAtPort ((locate_reads hl).map_eq rfl) r.1).bind fun _ _ => .ok _

/-- An instruction that writes its operand has one, and it is not immediate (R163 to R165, R196, R197, R220). -/
theorem exists_mode_of_writer (hi : mnemonicOf i ∈ Claims.writers) :
    ∃ am, operandOf i = .mode am ∧ ∀ w, am ≠ .immediate w := by
  cases i with
  | staZp | staZpx | staAbs | staAbx | staAby | staIzx | staIzy | stxZp | stxZpy | stxAbs | styZp | styZpx | styAbs
  | incZp | incZpx | incAbs | incAbx | decZp | decZpx | decAbs | decAbx | aslAcc | aslZp | aslZpx | aslAbs | aslAbx
  | lsrAcc | lsrZp | lsrZpx | lsrAbs | lsrAbx | rolAcc | rolZp | rolZpx | rolAbs | rolAbx | rorAcc | rorZp | rorZpx
  | rorAbs | rorAbx => exact ⟨_, rfl, nofun⟩
  | _ => simp [mnemonicOf, Claims.writers] at hi

/-- An operand of such an instruction is not found at a literal. -/
theorem locate_ne_literal {t : State} {l : Located} (ha : ∀ w, am ≠ .immediate w) (hl : locate am s = .ok (l, t))
    (w : Byte) : l ≠ .literal w := by
  rintro rfl
  exact ha w (locate_literal hl)

theorem exec_writer_portFault (hi : mnemonicOf i ∈ Claims.writers) (h : exec i s = .fault f) :
    Claims.portFault s.map f := by
  obtain ⟨am, ho, ha⟩ := exists_mode_of_writer hi
  obtain ⟨v, -, hx⟩ | ⟨r, p, -, -, hx⟩ := exec_writer hi ho s
  · refine execute_portFault ?_ (hx ▸ h)
    refine (locate_faultsAtPort rfl am).bind fun r hl => ?_
    exact (Located.save_faultsAtPort ((locate_reads hl).map_eq rfl) (locate_ne_literal ha hl) _).bind fun _ _ => .ok _
  · refine execute_portFault ?_ (hx ▸ h)
    refine (locate_faultsAtPort rfl am).bind fun r hl => ?_
    refine (Located.load_faultsAtPort ((locate_reads hl).map_eq rfl) r.1).bind fun q hm => ?_
    exact (Located.save_faultsAtPort (((locate_reads hl).trans (Located.load_reads hm)).map_eq rfl)
      (locate_ne_literal ha hl) _).bind fun _ _ => .ok _

/-- An official instruction faults only where the port refuses an access, form by form. -/
theorem exec_portFault (hi : mnemonicOf i ≠ .illegal) (h : exec i s = .fault f) : Claims.portFault s.map f := by
  cases form_of i with
  | reads am hρ ho hx => exact onOperand_portFault (congrFun hx s ▸ h)
  | stores am hv hx ha => exact exec_writer_portFault hv.mem_writers h
  | modifies am hm ho hx => exact exec_writer_portFault hm.mem_writers h
  | registers _ hx | flag _ hx => cases (congrFun hx s).symm.trans h
  | branches offset hb hx =>
    have h := congrFun hx s ▸ h
    rw [opBranch_eq] at h
    split at h <;> cases h
  | jmpAbs address => cases h
  | acts hf hx => exact hf.faultsAtPort (s := s.setPC (nextPC i s)) rfl s f (onStack_fault (congrFun hx s ▸ h))
  | illegal opcode => exact absurd rfl hi

/-- The model refuses no instruction. -/
theorem exec_not_refused (i : Instr) (s : State) (r : Refusal) : exec i s ≠ .refused r := by
  cases shape_of i with
  | reads _ _ _ hx | stores _ _ _ _ hx | modifies _ _ _ _ _ _ hx | registers _ hx | branches _ _ _ _ hx | other _ hx =>
    rw [hx]
    exact execute_not_refused
  | faults op hx => rw [hx]; exact nofun

/-- The flat map refuses nothing. -/
theorem not_portFault_flat : ¬ Claims.portFault Config.flat f := by
  rintro ⟨a, ⟨-, h⟩ | ⟨-, h⟩⟩ <;> simp [Memory.placeOf_flat, Memory.storeEffect_flat] at h

end

end Sys2Proof.Machine
end

section
/-! An interrupt entry by its accesses, which do not see the pending request, and the status byte that an entry leaves
on the stack (spec/60_exceptions.md R310, R311). -/

namespace Sys2Proof.Machine

/-- The accesses of an entry under a change that neither the port nor SP sees. -/
theorem Inert.entryAccesses {g : State → State} (hg : Inert g) (s : State) (hsp : (g s).sp = s.sp) (ret vec : Word)
    (status : Byte) :
    Claims.entryAccesses (g s) ret status vec =
      (Claims.entryAccesses s ret status vec).map fun r => (r.1, r.2.1, g r.2.2) := by
  have hslot (k : Nat) : Claims.slot (g s) k = Claims.slot s k := by rw [Claims.slot, hsp, Claims.slot]
  rw [Claims.entryAccesses, hslot, hslot, hslot]
  exact bind_commutes (hg.store s _ _) fun t =>
    bind_commutes (hg.store t _ _) fun u =>
      bind_commutes (hg.store u _ _) fun v =>
        bind_commutes (hg.read v _) fun q =>
          bind_commutes (hg.read q.2 _) fun _ => rfl

section
variable {s t : State} {ret vec : Word} {pushed : Byte} {k : InterruptKind}

theorem interruptStep_eq (k : InterruptKind) (s : State) :
    interruptStep k s = finish (do
      let t ← (s.setInterrupt .none).enter s.pc (Flags.pushedByInterrupt s.p) (vectorOf k)
      return t.addCycles s.timing.entry) := rfl

/-- An interrupt step in full, when the port answers all its accesses, which do not see that the request is taken back
(R132, R310). -/
theorem interruptStep_of_entryAccesses {lo hi : Byte} {x : State}
    (h : Claims.entryAccesses s s.pc (Flags.pushedByInterrupt s.p) (vectorOf k) = .ok (lo, hi, x)) :
    interruptStep k s = .next (((((((s.setInterrupt .none).setMem x.mem).setExternal x.external).setSP
      (s.sp - 3#8)).setP (Flags.put s.p Flags.iBit true)).setPC (Bits.join hi lo)).addCycles s.timing.entry) := by
  have ha := ((inert_setInterrupt .none).entryAccesses s rfl ..).trans (congrArg (Except.map _) h)
  rw [interruptStep_eq, State.enter_of_entryAccesses ha]
  rfl

theorem interruptStep_of_entryAccesses_error {f : Fault}
    (h : Claims.entryAccesses s s.pc (Flags.pushedByInterrupt s.p) (vectorOf k) = .error f) :
    interruptStep k s = .fault f := by
  have ha := ((inert_setInterrupt .none).entryAccesses s rfl ..).trans (congrArg (Except.map _) h)
  rw [interruptStep_eq, State.enter_of_entryAccesses_error ha]
  rfl

/-- On a stack page of RAM the byte above SP after an entry is the status byte pushed (R311). -/
theorem State.load_status_of_enter (h : Claims.stackRam s) (he : s.enter ret pushed vec = .ok t) :
    t.load (stackAddress (t.sp + 1#8)) = .ok pushed := by
  obtain ⟨-, -, hstatus⟩ := State.stackByte_of_enter h he
  obtain ⟨m, e, target, ht⟩ := State.enter_frame he
  have hram : Claims.stackRam t := ht ▸ h
  have hsp : t.sp + 1#8 = s.sp - 2#8 := by rw [ht]; bv_omega
  rw [(State.read_ok.1 (t.read_of_stackRam hram _)).1, hsp, hstatus]

/-- BRK pushes B set (R260, R311). -/
theorem Flags.pushedByBreak_bBit (p : Byte) : (pushedByBreak p).getLsbD 4 = true := by simp [pushedByBreak]

/-- An interrupt pushes B clear (R310, R311). -/
theorem Flags.pushedByInterrupt_bBit (p : Byte) : (pushedByInterrupt p).getLsbD 4 = false := by
  simp [pushedByInterrupt]

end

end Sys2Proof.Machine
end

section
/-! The obligations about exceptions and host operations (spec/60_exceptions.md). -/

namespace Sys2Proof.Proofs

open Sys2Proof.Machine

/-- Settles O17: the step is the entry at the vector of the selected request, by its accesses. -/
theorem interruptEntryEffect : Obligations.InterruptEntryEffect := by
  intro s k vec hfault hstall hpoll hvec
  have hv : vec = vectorOf k := by
    cases k <;> simpa [vectorOf, nmiVector, irqVector] using hvec
  subst hv
  rw [step_of_poll hfault hstall hpoll]
  exact ⟨fun lo hi x => interruptStep_of_entryAccesses, fun f => interruptStep_of_entryAccesses_error⟩

/-- Settles O23, by the accesses that each form of instruction and the entry are made of. -/
theorem officialFaultsComeFromThePort : Obligations.OfficialFaultsComeFromThePort := fun s =>
  ⟨fun i hi => ⟨exec_not_refused i s, fun _ => exec_portFault hi⟩, State.interruptEntry_faultsAtPort rfl,
    fun _ _ h => (State.load_error h).1, fun _ _ _ h => (State.store_error h).1⟩

/-- Settles O24: a fault would be a refused access, and the flat map refuses none. -/
theorem flatMemoryCompletes : Obligations.FlatMemoryCompletes := by
  intro i s hmap hi
  cases h : exec i s with
  | next t => exact ⟨t, rfl⟩
  | fault f => exact absurd (hmap ▸ exec_portFault hi h) not_portFault_flat
  | refused r => exact absurd h (exec_not_refused i s r)

/-- Settles O47: both handlers start from an entry, which leaves its status byte above SP. -/
theorem breakBitTellsBrkFromInterrupt : Obligations.BreakBitTellsBrkFromInterrupt := by
  intro s t hram
  refine ⟨fun h => ?_, fun k hfault hstall hpoll h => ?_⟩
  · obtain ⟨u, hu, rfl⟩ := onStack_next ((exec_brk s).symm.trans h)
    rw [State.enter_setPC] at hu
    exact ⟨_, State.load_status_of_enter (t := u) hram hu, Flags.pushedByBreak_bBit _⟩
  · rw [step_of_poll hfault hstall hpoll] at h
    obtain ⟨u, hu, ht⟩ := bind_ok.1 (finish_next h)
    cases ht
    exact ⟨_, State.load_status_of_enter (s := s.setInterrupt .none) (t := u) hram hu,
      Flags.pushedByInterrupt_bBit _⟩

/-- Settles O16, by what is pending and, for an IRQ, by I. -/
theorem pollSelects : Obligations.PollSelects := by
  intro s
  unfold State.poll
  cases s.interrupt with
  | none | nmi => simp
  | irq => cases s.i <;> simp

/-- Settles O57: each operation is its own update, and only RaiseIRQ looks at what is pending. -/
theorem hostOperations : Obligations.HostOperations := by
  intro s n v
  refine ⟨rfl, fun b => State.load_congr rfl rfl (.inr rfl), rfl, fun h => ?_, fun h => ?_, rfl, rfl⟩
  · simp only [State.raiseIRQ, h, State.setInterrupt]
  · unfold State.raiseIRQ
    split
    · contradiction
    all_goals rfl

end Sys2Proof.Proofs
end
